-- ==== Sys2Proof/Word.lean ====
section
/-! DEFINITION. The unit types of the block: a stream byte and a 32-bit word (register or pixel). -/

namespace Sys2Proof

/-- A byte of the compressed stream or of the palette blob (00_scope.md R11). -/
abbrev Byte := BitVec 8

/-- A 32-bit register of the register map (10_state.md R23). -/
abbrev Word := BitVec 32

/-- One RGBA pixel word, `R` in 31:24, `G` in 23:16, `B` in 15:8, `A` in 7:0 (30_encoding.md R79). -/
abbrev PixelWord := BitVec 32

end Sys2Proof
end

