-- ==== Sys2Proof/Config.lean ====
section
/-! DEFINITION. The fixed constants of 00_scope.md R10, the open parameters of R6 and R7, the palette's shape, and
the model's one free value. -/

namespace Sys2Proof

/-- One palette entry, `(R, G, B)` (10_state.md R38, 30_encoding.md R77). -/
structure Rgb where
  r : Byte
  g : Byte
  b : Byte
  deriving DecidableEq, Repr, Inhabited

/-- The palette table: exactly 256 entries, indexed by a whole byte (10_state.md R38, 20_memory.md R47). -/
abbrev Palette := Vector Rgb 256

/-- The staging bytes of a palette load (10_state.md R43). -/
abbrev Staging := Vector Byte 768

/-- What the control byte `0x00` does (00_scope.md R7, 40_rle_commands.md R94). -/
inductive EmptyLit where
  | fault
  | nop
  | decrement
  deriving DecidableEq, Repr

/-- The open parameters the block's step takes as an argument (10_state.md R17): they are carried in the state and
no step changes them (DESIGN CHOICE, log 4: safe). `NUM_UNITS` is the length of a platform, `PORT_PROTOCOL` enters
no rule (R9). -/
structure Params where
  /-- `MAX_PIXELS`, `1 <= MAX_PIXELS <= 2^64 - 1` (R6). -/
  maxPixels : BitVec 64
  /-- `EMPTY_LIT` (R7). -/
  emptyLit  : EmptyLit
  deriving DecidableEq, Repr

/-- The range R6 gives `MAX_PIXELS`; its upper end is the width of the field. -/
abbrev Params.wf (p : Params) : Prop := 1 ≤ p.maxPixels.toNat

namespace Config

/-- `PAL_ENTRIES` (R10). -/
abbrev palEntries : Nat := 256
/-- `PAL_BLOB_BYTES` (R10). -/
abbrev palBlobBytes : Nat := 768
/-- `RUN_FLAG`, bit 7 of a control byte (R10). -/
abbrev runFlag : Byte := 0x80#8
/-- `COUNT_MASK`, bits 6:0 of a control byte (R10). -/
abbrev countMask : Byte := 0x7F#8
/-- `FH_WORDS` (R10). -/
abbrev fhWords : Nat := 8
/-- `ALPHA_OPAQUE` (R10, 41_palette_mapper.md R108). -/
abbrev alphaOpaque : Byte := 0xFF#8
/-- `FILL_DEFAULT`, fully transparent black (R10). -/
abbrev fillDefault : PixelWord := 0x00000000#32
/-- The parameters of the machine `State.reset` stands for: the spec's default of `EMPTY_LIT` (R7), and the value of
`MAX_PIXELS` under which no frame is too large (R6; DESIGN CHOICE, log 4). -/
def resetParams : Params := { maxPixels := 0xFFFFFFFFFFFFFFFF#64, emptyLit := .fault }

/-- FREE VALUE (log 8): the content of `PAL` after a failed palette load, which the spec leaves unspecified
(41_palette_mapper.md R105, 10_state.md R39). The argument is the counter `freeCount` of the state. -/
opaque freePalette : Nat → Palette

end Config

end Sys2Proof
end

