-- ==== Sys2Proof/Syntax.lean ====
section
/-! DEFINITION. The instructions (one constructor per row of spec/opcode_table.json), the code words that carry them,
and the commands of a stream with their payload. -/

namespace Sys2Proof

/-- The seven instructions: four control bytes of the compressed stream (30_encoding.md R70) and three host commands
written to the register `CMD` (R75). A `LIT`'s payload bytes are taken by later steps (40_rle_commands.md R90, R92),
so they are no operand here; `Command` below carries them. -/
inductive Instr where
  /-- `EOL`, end-of-scan-line marker (40_rle_commands.md R89). -/
  | eol
  /-- `SKIP n`, transparent run (R88). -/
  | skip (n : BitVec 7)
  /-- `LIT0`, the reserved control byte `0x00` (R94). -/
  | lit0
  /-- `LIT n`, literal run, control step (R90). -/
  | lit (n : BitVec 7)
  /-- `PAL_LOAD`, host command (41_palette_mapper.md R103). -/
  | palLoad
  /-- `START`, host command (42_frame_control.md R115). -/
  | start
  /-- `ACK`, host command (R126). -/
  | ack
  deriving DecidableEq, Repr

/-- What carries an instruction: a control byte of the stream (format C, 30_encoding.md R67), or the 32-bit value
written to `CMD` (R75). -/
inductive CodeWord where
  | control (b : Byte)
  | command (v : Word)
  deriving DecidableEq, Repr

/-- A command of a stream as the parse of 30_encoding.md R74 sees it: a control byte with its payload. The last
constructor is the truncated `LIT` at the end of a byte sequence (R83). -/
inductive Command where
  | eol
  | skip (n : BitVec 7)
  | lit0
  | lit (payload : List Byte)
  | truncatedLit (n : BitVec 7) (payload : List Byte)
  deriving DecidableEq, Repr

end Sys2Proof
end

