-- ==== Sys2Proof/WellFormed.lean ====
section
/-! DEFINITION. Which terms stand for an encoding: the operand ranges of 30_encoding.md R70 and R71. -/

namespace Sys2Proof

/-- The count of `SKIP` and of `LIT` is 1 to 127: count 0 is `EOL` and `LIT0` (30_encoding.md R70). -/
def Instr.wellFormed : Instr → Bool
  | .eol => true
  | .skip n => n != 0#7
  | .lit0 => true
  | .lit n => n != 0#7
  | .palLoad => true
  | .start => true
  | .ack => true

/-- A command that can stand anywhere in a stream: counts 1 to 127 and a whole payload (30_encoding.md R70, R71). -/
def Command.wellFormed : Command → Bool
  | .eol => true
  | .skip n => n != 0#7
  | .lit0 => true
  | .lit payload => decide (1 ≤ payload.length) && decide (payload.length ≤ 127)
  | .truncatedLit _ _ => false

/-- A truncated `LIT` owes at least one byte more than it has (30_encoding.md R83). -/
def Command.wellFormedLast : Command → Bool
  | .truncatedLit n payload => decide (payload.length < n.toNat)
  | c => c.wellFormed

end Sys2Proof
end

