-- ==== Sys2Proof/Decode.lean ====
section
/-! DEFINITION. The decoder of both instruction spaces, the opcode table as data, the encoder, and the parse and
printing of a whole stream. -/

namespace Sys2Proof

/-- Why a code word or a byte sequence gives no instruction. -/
inductive DecodeError where
  /-- A `CMD` value other than 1, 2, 3 (10_state.md R24, 30_encoding.md R75). -/
  | unknownCommand (v : Word)
  /-- There is no byte to decode. -/
  | noByte
  deriving DecidableEq, Repr

/-- The run flag `T`: `(b & 0x80) != 0` (30_encoding.md R67). -/
def runFlag (b : Byte) : Bool := (b &&& Config.runFlag) != 0#8

/-- The count: `b & 0x7F`, zero-extended, unscaled, unbiased (30_encoding.md R67, R69). -/
def count (b : Byte) : BitVec 7 := (b &&& Config.countMask).setWidth 7

/-- The opcode map of the control byte; every byte is an instruction (30_encoding.md R70, 40_rle_commands.md R85). -/
def decodeControl (b : Byte) : Instr :=
  if b = 0x80#8 then .eol
  else if runFlag b then .skip (count b)
  else if b = 0x00#8 then .lit0
  else .lit (count b)

/-- The host command codes; the whole 32-bit value is compared (10_state.md R24, 30_encoding.md R75). -/
def decodeCommand (v : Word) : Except DecodeError Instr :=
  if v = 1#32 then .ok .palLoad
  else if v = 2#32 then .ok .start
  else if v = 3#32 then .ok .ack
  else .error (.unknownCommand v)

/-- The decoder over both instruction spaces. -/
def decode : CodeWord → Except DecodeError Instr
  | .control b => .ok (decodeControl b)
  | .command v => decodeCommand v

/-- The instruction at the head of a byte sequence where a control byte is due, with the bytes after its control
byte (30_encoding.md R74). -/
def decodeBytes : List Byte → Except DecodeError (Instr × List Byte)
  | [] => .error .noByte
  | b :: rest => .ok (decodeControl b, rest)

/-- How many payload bytes follow an instruction's control byte (30_encoding.md R71). -/
def Instr.payloadLength : Instr → Nat
  | .lit n => n.toNat
  | _ => 0

/-- An 8-bit table word laid out as the stream carries it: its control byte, then a payload of zero bytes. -/
def controlBytes (w : Nat) : List Byte :=
  let b := BitVec.ofNat 8 w
  b :: List.replicate (decodeControl b).payloadLength 0#8

/-- The instruction the decoder reads from a word of the opcode table: rows of 8 bits are control bytes, rows of 32
bits are `CMD` values (30_encoding.md R84). -/
def decodeTableWord (nbits w : Nat) : Option Instr :=
  if nbits = 8 then
    match decodeBytes (controlBytes w) with
    | .ok (i, _) => some i
    | .error _ => none
  else if nbits = 32 then
    match decode (.command (BitVec.ofNat 32 w)) with
    | .ok i => some i
    | .error _ => none
  else none

/-! ### The opcode table as data -/

/-- A row of the opcode table: its mnemonic, the width of the word, and the bits under the mask (30_encoding.md R84). -/
structure OpcodeRow where
  mnemonic  : String
  width     : Nat
  matchBits : BitVec 32
  mask      : BitVec 32
  deriving DecidableEq, Repr

/-- The rows in the order given, most specific first (30_encoding.md R70, R84). -/
def opcodeTable : List OpcodeRow :=
  [ ⟨"EOL", 8, 0x80#32, 0xFF#32⟩, ⟨"SKIP", 8, 0x80#32, 0x80#32⟩, ⟨"LIT0", 8, 0x00#32, 0xFF#32⟩,
    ⟨"LIT", 8, 0x00#32, 0x80#32⟩, ⟨"PAL_LOAD", 32, 1#32, 0xFFFFFFFF#32⟩,
    ⟨"START", 32, 2#32, 0xFFFFFFFF#32⟩, ⟨"ACK", 32, 3#32, 0xFFFFFFFF#32⟩ ]

/-- The mnemonic of the first row of a width whose fixed bits the word has. -/
def lookupMnemonic (width : Nat) (w : BitVec 32) : Option String :=
  (opcodeTable.find? fun r => r.width == width && (w &&& r.mask) == r.matchBits).map (·.mnemonic)

/-- The name of an instruction in the opcode table. -/
def Instr.mnemonic : Instr → String
  | .eol => "EOL"
  | .skip _ => "SKIP"
  | .lit0 => "LIT0"
  | .lit _ => "LIT"
  | .palLoad => "PAL_LOAD"
  | .start => "START"
  | .ack => "ACK"

/-- The width of a code word and its bits as a 32-bit number. -/
def CodeWord.tableWord : CodeWord → Nat × BitVec 32
  | .control b => (8, b.setWidth 32)
  | .command v => (32, v)

/-! ### The encoder -/

/-- The code word of an instruction (30_encoding.md R70, R75, R81). -/
def encode : Instr → CodeWord
  | .eol => .control 0x80#8
  | .skip n => .control (1#1 ++ n)
  | .lit0 => .control 0x00#8
  | .lit n => .control (0#1 ++ n)
  | .palLoad => .command 1#32
  | .start => .command 2#32
  | .ack => .command 3#32

/-! ### Whole streams: parse, assembly, printing -/

/-- The parse of 30_encoding.md R74, one byte at a time. `owed` is how many payload bytes the literal run of count
`n` still owes, `got` the payload bytes it already has, last first. -/
def parseFrom : List Byte → (owed : Nat) → (n : BitVec 7) → (got : List Byte) → List Command
  | [], 0, _, _ => []
  | [], _ + 1, n, got => [.truncatedLit n got.reverse]
  | b :: rest, 0, _, _ =>
    match decodeControl b with
    | .eol => .eol :: parseFrom rest 0 0#7 []
    | .skip n => .skip n :: parseFrom rest 0 0#7 []
    | .lit n => parseFrom rest n.toNat n []
    | .lit0 | .palLoad | .start | .ack => .lit0 :: parseFrom rest 0 0#7 []
  | b :: rest, 1, _, got => .lit (b :: got).reverse :: parseFrom rest 0 0#7 []
  | b :: rest, k + 2, n, got => parseFrom rest (k + 1) n (b :: got)

/-- A byte sequence as commands (30_encoding.md R74, R83). Total: every byte sequence parses. -/
def parse (bytes : List Byte) : List Command := parseFrom bytes 0 0#7 []

/-- The bytes of a command (30_encoding.md R81). -/
def Command.bytes : Command → List Byte
  | .eol => [0x80#8]
  | .skip n => [1#1 ++ n]
  | .lit0 => [0x00#8]
  | .lit payload => BitVec.ofNat 8 payload.length :: payload
  | .truncatedLit n payload => (0#1 ++ n) :: payload

/-- A stream assembled from its commands: their concatenation, nothing else (30_encoding.md R73). -/
def assemble (cs : List Command) : List Byte := cs.flatMap Command.bytes

/-- A command in the syntax of 30_encoding.md R81, numbers in decimal. A truncated `LIT` prints with the operands it
has (R83). -/
def Command.print : Command → String
  | .eol => "EOL"
  | .skip n => "SKIP " ++ toString n.toNat
  | .lit0 => "LIT0"
  | .lit payload => ", ".intercalate (("LIT " ++ toString payload.length) :: payload.map fun b => toString b.toNat)
  | .truncatedLit n payload => ", ".intercalate (("LIT " ++ toString n.toNat) :: payload.map fun b => toString b.toNat)

/-- Disassembly: the parse, printed (30_encoding.md R83). -/
def disassemble (bytes : List Byte) : List String := (parse bytes).map Command.print

end Sys2Proof
end

