-- ==== Sys2Proof/Machine/State.lean ====
section
/-! DEFINITION. The state of one unit of the block with its host, as plain data, and the state after reset. -/

namespace Sys2Proof.Machine

/-- `STATE`: the phase of the block; code 7 is never taken (10_state.md R41). -/
inductive Phase where
  | idle
  | palload
  | fill
  | decode
  | flip
  | done
  | fault
  deriving DecidableEq, Repr

/-- `FAULT`: the fault kinds (60_exceptions.md R148). The block itself raises kinds 1, 4, 5, 6, 7; kinds 2 and 3 are
the host's (R155). -/
inductive FaultKind where
  | none
  | invalidPaletteSize
  | invalidHeader
  | truncatedFrame
  | truncatedRun
  | pixelOverrun
  | ioFailure
  | reservedCommand
  deriving DecidableEq, Repr

/-- `REFUSAL`: why the last host write or command was refused (60_exceptions.md R158). -/
inductive RefusalReason where
  | none
  | wrongState
  | noPalette
  | zeroArea
  | frameTooLarge
  | paletteLocked
  | unknownCommand
  | notReadable
  | badRegister
  deriving DecidableEq, Repr

/-- A token of the input port (20_memory.md R50): the next byte of the source, `End`, or `Err`. -/
inductive Token where
  | byte (b : Byte)
  | eos
  | err
  deriving DecidableEq, Repr

/-- The frame descriptor `FH0..FH7`, one field per register, in file order (10_state.md R29 to R34). -/
structure Descriptor where
  isFlipped      : Word
  width          : Word
  height         : Word
  offsetX        : Word
  offsetY        : Word
  alwaysZero     : Word
  nextFrameIndex : Word
  length         : Word
  deriving DecidableEq, Repr

/-- What the host may do in one of its steps (20_memory.md R51, R52; 70_reset_and_hazards.md R171, R179), and two
entries that say when the block moves (DESIGN CHOICE, log 1: safe). -/
inductive HostOp where
  /-- `RD n` (20_memory.md R51). -/
  | regRead (n : Nat)
  /-- `WR n, v`; number 0 is `CMD` (R51, 10_state.md R24). -/
  | regWrite (n : Nat) (v : Word)
  /-- `PIXRD i` (R52). -/
  | pixRead (i : Nat)
  /-- `PUSH t`: queue a token (R49, R50). -/
  | push (t : Token)
  /-- Empty the token queue (43_host_formats.md R140, 70_reset_and_hazards.md R179). -/
  | discard
  /-- The reset event (70_reset_and_hazards.md R171). -/
  | reset
  /-- The host lets the block take one step. -/
  | letBlock
  /-- The host waits until the block has no operation in progress (43_host_formats.md R140). -/
  | await
  deriving DecidableEq, Repr

/-- What a host read returned (20_memory.md R51, R52). -/
inductive Reply where
  | reg (v : Word)
  | pixel (w : PixelWord)
  | noPixel
  deriving DecidableEq, Repr

/-- The pixel buffer as the block's memory: pixel words by index, indices strictly rising, nothing listed for a word
that has no value. The unit is the 32-bit pixel word, the smallest the spec accesses (20_memory.md R56). -/
abbrev Memory := List (Nat × PixelWord)

/-- The canonical form of a memory: strictly rising indices. An unlisted word reads as no value, so no entry can
equal it. -/
abbrev Memory.wf (m : Memory) : Prop := List.Pairwise (fun c d : Nat × PixelWord => c.1 < d.1) m

/-- One unit of the block (10_state.md R16, all of it), its input port, and the host's side as data (R17). -/
structure State where
  /-- The open parameters (00_scope.md R6, R7); no step changes them. -/
  params     : Params
  /-- `STATE`. -/
  phase      : Phase
  /-- `FAULT`. -/
  faultKind  : FaultKind
  /-- `REFUSAL`. -/
  refusal    : RefusalReason
  /-- `PAL_VALID`. -/
  palValid   : Bool
  /-- `PAL[0..255]`. -/
  pal        : Palette
  /-- `FILL`. -/
  fill       : PixelWord
  /-- `FRAME_INDEX`. -/
  frameIndex : Word
  /-- `FH0..FH7`. -/
  desc       : Descriptor
  /-- `POS`, a natural: 10_state.md R19 gives it 64 bits, and 70_reset_and_hazards.md R185 and 92_eei_decisions.md D9
  let a model use naturals (log 5: safe). -/
  pos        : Nat
  /-- `CONSUMED`. -/
  consumed   : BitVec 32
  /-- `RUN`. -/
  run        : BitVec 7
  /-- `PIX`. -/
  pix        : Memory
  /-- `PCNT`, a natural, 0 to 769. -/
  pcnt       : Nat
  /-- `PSTAGE[0..767]`. -/
  pstage     : Staging
  /-- `Q`: tokens supplied by the host and not yet taken (20_memory.md R50). -/
  q          : List Token
  /-- What the host does next, and when the block moves (log 1). -/
  script     : List HostOp
  /-- What the host's reads returned, newest first (log 3). -/
  replies    : List Reply
  /-- How many free values have been drawn (log 8). -/
  freeCount  : Nat
  deriving DecidableEq, Repr

/-- Why a step can stop the model. Neither reason is the spec's: the block's own faults are next states
(60_exceptions.md R152). Both arise only in states no run from reset reaches. -/
inductive Fault where
  /-- Raised by `EOL`, and by `LIT0` under `EMPTY_LIT = decrement`, when `FH1 = 0`: a division the spec gives no value
  (00_scope.md R12), ruled out by the `ZeroArea` check of `START` (42_frame_control.md R116). Safe (log 9). -/
  | zeroWidth
  /-- Raised by a pixel read in `DONE` of a word that was not written since `START`, ruled out by the FILL step
  (20_memory.md R53). Safe (log 10). -/
  | unwrittenPixel
  deriving DecidableEq, Repr

/-- Why a step can refuse. -/
inductive Refusal where
  /-- An instruction without a meaning, raised by its arm of `exec`; no arm does. Safe. -/
  | notModelled (mnemonic : String)
  deriving DecidableEq, Repr

/-- The result of an operation of the machine. -/
abbrev Result := Host.Outcome State Fault Refusal

/-- The machine right after reset (10_state.md R44, 70_reset_and_hazards.md R171). `PAL` and `PSTAGE` are unspecified
there: zero is the model's choice (DESIGN CHOICE, log 6: unsafe). `PIX` is unspecified: no word has a value (log 7). The
queue, the script and the replies are the host's, empty here (log 3); the parameters are log 4's. -/
def State.reset : State where
  params     := Config.resetParams
  phase      := .idle
  faultKind  := .none
  refusal    := .none
  palValid   := false
  pal        := Vector.replicate 256 { r := 0#8, g := 0#8, b := 0#8 }
  fill       := Config.fillDefault
  frameIndex := 0#32
  desc       := { isFlipped := 0#32, width := 0#32, height := 0#32, offsetX := 0#32, offsetY := 0#32,
                  alwaysZero := 0#32, nextFrameIndex := 0#32, length := 0#32 }
  pos        := 0
  consumed   := 0#32
  run        := 0#7
  pix        := []
  pcnt       := 0
  pstage     := Vector.replicate 768 0#8
  q          := []
  script     := []
  replies    := []
  freeCount  := 0

end Sys2Proof.Machine
end

