-- ==== Sys2Proof/Machine/Ops.lean ====
section
/-! DEFINITION. The shared operations: the pixel memory, raising a fault and returning from it, refusing and
accepting a host operation, taking a token. -/

namespace Sys2Proof.Machine

/-! ### The pixel memory -/

/-- The word at an index; `none` where nothing was written. -/
def Memory.read : Memory → Nat → Option PixelWord
  | [], _ => none
  | (a, w) :: rest, i => if a = i then some w else Memory.read rest i

/-- Write one whole pixel word (20_memory.md R56), keeping the indices rising. -/
def Memory.write : Memory → Nat → PixelWord → Memory
  | [], i, v => [(i, v)]
  | (a, w) :: rest, i, v =>
    if i < a then (i, v) :: (a, w) :: rest
    else if i = a then (i, v) :: rest
    else (a, w) :: Memory.write rest i v

/-- The memory whose words `0 .. n-1` are given by `f`; a word `f` gives no value is unlisted. -/
def Memory.tabulate (n : Nat) (f : Nat → Option PixelWord) : Memory :=
  (List.range n).filterMap fun i => (f i).map fun w => (i, w)

/-! ### Faults: entry and return -/

/-- What fault entry leaves (60_exceptions.md R152): `FAULT <- code(K)`, `STATE <- FAULT`, and nothing else. `PIX`
becomes unspecified there (R152, 10_state.md R40): no word of it has a value (log 7: safe). -/
def State.faulted (s : State) (k : FaultKind) : State :=
  { s with faultKind := k, phase := .fault, pix := [] }

/-- Fault entry, `raise K` (60_exceptions.md R152). -/
def raise (k : FaultKind) (s : State) : Result := .next (s.faulted k)

/-- What the return from `DONE` or `FAULT` leaves (42_frame_control.md R126, 60_exceptions.md R159): nothing is
restored, because nothing was saved. `PIX` becomes unspecified (R126, log 7: safe). -/
def State.released (s : State) : State :=
  { s with faultKind := .none, refusal := .none, phase := .idle, pix := [] }

/-- The return from `DONE` or `FAULT`. -/
def returnToIdle (s : State) : Result := .next s.released

/-! ### Refusals -/

/-- The one effect of a refused operation (60_exceptions.md R157): `REFUSAL <- reason`. -/
def State.refusedWith (s : State) (r : RefusalReason) : State := { s with refusal := r }

/-- `refuse Reason` (60_exceptions.md R157). -/
def refuse (r : RefusalReason) (s : State) : Result := .next (s.refusedWith r)

/-- An accepted register write or command sets `REFUSAL <- 0` (10_state.md R26). -/
def State.accepted (s : State) : State := { s with refusal := .none }

/-! ### The input port -/

/-- `In()` (20_memory.md R50): the head of `Q`, removed, handed on with the state after. With `Q` empty the block has
no step: it is stuck, which is neither a fault nor an end state, and the state stays as it is (log 2: safe). -/
def takeToken (s : State) (k : Token → State → Result) : Result :=
  match s.q with
  | [] => .next s
  | t :: rest => k t { s with q := rest }

/-- The fetch of a stream byte in phase DECODE (40_rle_commands.md R85, R92): `Err` raises `IoFailure`, `End` raises
`TruncatedRun`, and a byte is counted once, before its effect (R86). -/
def fetchStreamByte (s : State) (k : Byte → State → Result) : Result :=
  takeToken s fun t s =>
    match t with
    | .err => raise .ioFailure s
    | .eos => raise .truncatedRun s
    | .byte b => k b { s with consumed := s.consumed + 1#32 }

end Sys2Proof.Machine
end

