-- ==== Sys2Proof/Machine/Operands.lean ====
section
/-! DEFINITION. Operand forms: the shorthands of 00_scope.md R13, the palette mapper, the row arithmetic of the
cursor. -/

namespace Sys2Proof.Machine

/-- `W = FH[1]` (00_scope.md R13). -/
def State.W (s : State) : Nat := s.desc.width.toNat

/-- `H = FH[2]`. -/
def State.H (s : State) : Nat := s.desc.height.toNat

/-- `LEN = FH[7]`. -/
def State.len (s : State) : BitVec 32 := s.desc.length

/-- `N = W * H`, exact (40_rle_commands.md R101). -/
def State.N (s : State) : Nat := s.W * s.H

/-- `FLIPPED = (FH0 != 0)`: all 32 bits take part (10_state.md R29). -/
def State.flipped (s : State) : Bool := s.desc.isFlipped != 0#32

/-- `Map(idx) = { R, G, B, 0xFF }` (41_palette_mapper.md R108). Total and pure (R109). -/
def mapIndex (pal : Palette) (idx : Byte) : PixelWord :=
  let e := pal[idx.toNat]'idx.isLt
  e.r ++ e.g ++ e.b ++ Config.alphaOpaque

/-- The first pixel of the next row: `((pos / W) + 1) * W` (40_rle_commands.md R89). -/
def nextRow (w pos : Nat) : Nat := (pos / w + 1) * w

/-- The row-fill decrement (40_rle_commands.md R92, R93): a literal run that ends on a multiple of the width leaves
the cursor one before it. -/
def rowFill (w pos : Nat) : Nat := if pos % w = 0 then pos - 1 else pos

/-- The index that row reversal takes to index `i` of a `w` by `h` buffer (42_frame_control.md R122). -/
def mirror (w h i : Nat) : Nat := (h - 1 - i / w) * w + i % w

end Sys2Proof.Machine
end

