-- ==== Sys2Proof/Machine/Flags.lean ====
section
/-! DEFINITION. The codes of the control fields, the status word and the completion signal. The block has no condition
flags (10_state.md R22): these are its only flag-like bits. -/

namespace Sys2Proof.Machine

/-- The code of `STATE` (10_state.md R41). -/
def Phase.code : Phase → BitVec 3
  | .idle => 0#3
  | .palload => 1#3
  | .fill => 2#3
  | .decode => 3#3
  | .flip => 4#3
  | .done => 5#3
  | .fault => 6#3

/-- An operation is in progress: the block has a step of its own, or waits for a token (10_state.md R41). -/
def Phase.busy : Phase → Bool
  | .idle => false
  | .palload => true
  | .fill => true
  | .decode => true
  | .flip => true
  | .done => false
  | .fault => false

/-- The code of `FAULT` (60_exceptions.md R148). -/
def FaultKind.code : FaultKind → BitVec 4
  | .none => 0#4
  | .invalidPaletteSize => 1#4
  | .invalidHeader => 2#4
  | .truncatedFrame => 3#4
  | .truncatedRun => 4#4
  | .pixelOverrun => 5#4
  | .ioFailure => 6#4
  | .reservedCommand => 7#4

/-- The code of `REFUSAL` (60_exceptions.md R158). -/
def RefusalReason.code : RefusalReason → BitVec 4
  | .none => 0#4
  | .wrongState => 1#4
  | .noPalette => 2#4
  | .zeroArea => 3#4
  | .frameTooLarge => 4#4
  | .paletteLocked => 5#4
  | .unknownCommand => 6#4
  | .notReadable => 7#4
  | .badRegister => 8#4

/-- The word `STATUS` reads as: `STATE` in 2:0, `PAL_VALID` in 3, `FAULT` in 7:4, zero above (10_state.md R25). -/
def State.statusWord (s : State) : Word :=
  0#24 ++ s.faultKind.code ++ BitVec.ofBool s.palValid ++ s.phase.code

/-- The level output `irq` (60_exceptions.md R161). -/
def State.irq (s : State) : Bool := decide (s.phase = .done ∨ s.phase = .fault)

end Sys2Proof.Machine
end

