-- ==== Sys2Proof/Machine/FrameControl.lean ====
section
/-! DEFINITION. Frame control (42_frame_control.md): the commands `START` and `ACK`, the FILL and FLIP steps, the
handoff. -/

namespace Sys2Proof.Machine

/-- `START` (42_frame_control.md R115 to R118): four checks in order, the first that fails gives the reason. -/
def execStart (s : State) : Result :=
  if s.phase ≠ .idle then refuse .wrongState s
  else if s.palValid = false then refuse .noPalette s
  else if s.W = 0 ∨ s.H = 0 then refuse .zeroArea s
  else if s.params.maxPixels.toNat < s.N then refuse .frameTooLarge s
  else .next { s.accepted with pos := 0, consumed := 0#32, run := 0#7, phase := .fill }

/-- `ACK` (42_frame_control.md R126): releases a result or a fault. -/
def execAck (s : State) : Result :=
  if s.phase = .done ∨ s.phase = .fault then returnToIdle s else refuse .wrongState s

/-- The FILL step (42_frame_control.md R119): all `N` words, whatever the buffer held. -/
def fillStep (s : State) : Result :=
  .next { s with pix := Memory.tabulate s.N fun _ => some s.fill, phase := .decode }

/-- The buffer after orientation (42_frame_control.md R122): rows reversed as wholes when `isFlipped = 0`. -/
def orient (s : State) : Memory :=
  if s.flipped then s.pix else Memory.tabulate s.N fun i => s.pix.read (mirror s.W s.H i)

/-- The FLIP step (42_frame_control.md R122): the cursor and the counter are left alone. -/
def flipStep (s : State) : Result :=
  .next { s with pix := orient s, phase := .done }

/-- The handoff tuple `(frameIndex, width, height, pixels)` (30_encoding.md R80). -/
structure Handoff where
  frameIndex : Word
  width      : Word
  height     : Word
  pixels     : List PixelWord
  deriving DecidableEq, Repr

/-- The handoff, available in `DONE` only (42_frame_control.md R125). -/
def State.handoff (s : State) : Option Handoff :=
  if s.phase = .done then
    some { frameIndex := s.frameIndex, width := s.desc.width, height := s.desc.height,
           pixels := (List.range s.N).filterMap s.pix.read }
  else none

end Sys2Proof.Machine
end

