-- ==== Sys2Proof/Machine/PaletteLoad.lean ====
section
/-! DEFINITION. The palette table: the command `PAL_LOAD` and the steps of phase PALLOAD (41_palette_mapper.md). -/

namespace Sys2Proof.Machine

/-- `PAL_LOAD` (41_palette_mapper.md R103): accepted in `IDLE` while no palette is held. -/
def execPalLoad (s : State) : Result :=
  if s.phase ≠ .idle then refuse .wrongState s
  else if s.palValid then refuse .paletteLocked s
  else .next { s.accepted with pcnt := 0, phase := .palload }

/-- The entry of the palette at `i`, from the staged bytes in (B, G, R) order (41_palette_mapper.md R106). -/
def stagedEntry (stage : Staging) (i : Fin 256) : Rgb :=
  { b := stage[3 * i.val], g := stage[3 * i.val + 1], r := stage[3 * i.val + 2] }

/-- Commit: the reorder from (B, G, R) to (R, G, B) of all 256 entries (41_palette_mapper.md R106). -/
def commitPalette (stage : Staging) : Palette := Vector.ofFn (stagedEntry stage)

/-- A failed load (41_palette_mapper.md R104, R105): `PAL_VALID <- 0`, the fault, and a palette whose content is
unspecified, which is a free value (log 8: safe). -/
def failLoad (k : FaultKind) (s : State) : Result :=
  raise k { s with palValid := false, pal := Config.freePalette s.freeCount, freeCount := s.freeCount + 1 }

/-- A blob byte (41_palette_mapper.md R104): staged while fewer than 768 are held, counted up to 769. -/
def stageByte (b : Byte) (s : State) : State :=
  { s with
    pstage := if h : s.pcnt < 768 then s.pstage.set s.pcnt b h else s.pstage
    pcnt := if s.pcnt < 769 then s.pcnt + 1 else s.pcnt }

/-- End of blob (41_palette_mapper.md R105): the size check, then the commit. -/
def endOfBlob (s : State) : Result :=
  if s.pcnt ≠ Config.palBlobBytes then failLoad .invalidPaletteSize s
  else .next { s with pal := commitPalette s.pstage, palValid := true, phase := .idle }

/-- The PALLOAD step, one token a step (41_palette_mapper.md R104). -/
def palloadStep (s : State) : Result :=
  takeToken s fun t s =>
    match t with
    | .err => failLoad .ioFailure s
    | .byte b => .next (stageByte b s)
    | .eos => endOfBlob s

end Sys2Proof.Machine
end

