-- ==== Sys2Proof/Machine/Rle.lean ====
section
/-! DEFINITION. The RLE commands of phase DECODE (40_rle_commands.md): the meanings of the four control bytes, the
payload step and the exit step. The control byte is already taken and counted when a meaning runs (R85, R86). -/

namespace Sys2Proof.Machine

/-- `EOL` (40_rle_commands.md R89): the cursor jumps to the first pixel of the next row. `W >= 1` in every frame
(42_frame_control.md R116); a zero width, which no run reaches, stops the model (log 9: safe). -/
def execEol (s : State) : Result :=
  if s.W = 0 then .fault .zeroWidth else .next { s with pos := nextRow s.W s.pos }

/-- `SKIP n` (40_rle_commands.md R88): a linear skip, with no access to `PIX` and no further token. -/
def execSkip (n : BitVec 7) (s : State) : Result :=
  .next { s with pos := s.pos + n.toNat }

/-- `LIT0`, the reserved control byte, by `EMPTY_LIT` (40_rle_commands.md R94). -/
def execLit0 (s : State) : Result :=
  match s.params.emptyLit with
  | .fault => raise .reservedCommand s
  | .nop => .next s
  | .decrement =>
    if s.W = 0 then .fault .zeroWidth
    else if s.pos % s.W = 0 then
      if s.pos = 0 then raise .reservedCommand s else .next { s with pos := s.pos - 1 }
    else .next s

/-- `LIT n`, control step (40_rle_commands.md R90): it only says how many payload bytes follow. -/
def execLit (n : BitVec 7) (s : State) : Result :=
  .next { s with run := n }

/-- The write of one literal pixel (40_rle_commands.md R92, after the byte is taken and counted): the bound check
comes first, and the row-fill decrement is tested once, at the end of the run. -/
def writeLiteral (idx : Byte) (s : State) : Result :=
  if s.N ≤ s.pos then raise .pixelOverrun s
  else
    let run := s.run - 1#7
    let pos := s.pos + 1
    .next { s with
      pix := s.pix.write s.pos (mapIndex s.pal idx)
      run := run
      pos := if run = 0#7 then rowFill s.W pos else pos }

/-- The payload step (40_rle_commands.md R92), taken while `RUN > 0`: no token is taken once `CONSUMED = LEN`.
`CONSUMED > LEN` is reached by no run; the document's "read past the declared `length` bytes" covers it
(DEDUCED, log 11: safe). -/
def payloadStep (s : State) : Result :=
  if s.len ≤ s.consumed then raise .truncatedRun s
  else fetchStreamByte s writeLiteral

/-- The exit step (40_rle_commands.md R87): takes no token and leaves `POS`, `CONSUMED` and `PIX` unchanged. -/
def exitStep (s : State) : Result :=
  .next { s with phase := .flip }

end Sys2Proof.Machine
end

