-- ==== Sys2Proof/Machine/Dispatch.lean ====
section
/-! DEFINITION. One arm per instruction. -/

namespace Sys2Proof.Machine

def exec (i : Instr) (s : State) : Host.Outcome State Fault Refusal :=
  match i with
  | .eol => Sys2Proof.Machine.execEol s
  | .skip n => Sys2Proof.Machine.execSkip n s
  | .lit0 => Sys2Proof.Machine.execLit0 s
  | .lit n => Sys2Proof.Machine.execLit n s
  | .palLoad => Sys2Proof.Machine.execPalLoad s
  | .start => Sys2Proof.Machine.execStart s
  | .ack => Sys2Proof.Machine.execAck s

end Sys2Proof.Machine
end

