-- ==== Sys2Proof/Machine/Registers.lean ====
section
/-! DEFINITION. The register map (10_state.md R23): reads of every register, writes of every register but `CMD`, and
the pixel read port. -/

namespace Sys2Proof.Machine

/-- `RegRead(n)` (20_memory.md R51, 10_state.md R23 to R37): the current value, in every state. `CMD` and the reserved
numbers read as zero. -/
def regRead (s : State) (n : Nat) : Word :=
  match n with
  | 1 => s.statusWord
  | 2 => s.refusal.code.setWidth 32
  | 3 => s.fill
  | 4 => s.frameIndex
  | 8 => s.desc.isFlipped
  | 9 => s.desc.width
  | 10 => s.desc.height
  | 11 => s.desc.offsetX
  | 12 => s.desc.offsetY
  | 13 => s.desc.alwaysZero
  | 14 => s.desc.nextFrameIndex
  | 15 => s.desc.length
  | 16 => BitVec.ofNat 32 s.pos
  | 17 => BitVec.ofNat 32 (s.pos / 2 ^ 32)
  | 18 => s.consumed
  | 19 => s.run.setWidth 32
  | _ => 0#32

/-- The registers the host may write in `IDLE`: `FILL`, `FRAME_INDEX`, `FH0..FH7` (10_state.md R23, R36). -/
def writable (n : Nat) : Bool := n == 3 || n == 4 || (decide (8 ≤ n) && decide (n ≤ 15))

/-- The state with a writable register set (10_state.md R27 to R34). -/
def State.setReg (s : State) (n : Nat) (v : Word) : State :=
  match n with
  | 3 => { s with fill := v }
  | 4 => { s with frameIndex := v }
  | 8 => { s with desc := { s.desc with isFlipped := v } }
  | 9 => { s with desc := { s.desc with width := v } }
  | 10 => { s with desc := { s.desc with height := v } }
  | 11 => { s with desc := { s.desc with offsetX := v } }
  | 12 => { s with desc := { s.desc with offsetY := v } }
  | 13 => { s with desc := { s.desc with alwaysZero := v } }
  | 14 => { s with desc := { s.desc with nextFrameIndex := v } }
  | 15 => { s with desc := { s.desc with length := v } }
  | _ => s

/-- `RegWrite(n, v)` for `n` other than `CMD` (10_state.md R36, R37): a writable register takes the value in `IDLE`
only; a read-only or reserved number is refused in every state. -/
def regWrite (n : Nat) (v : Word) (s : State) : Result :=
  if writable n then
    if s.phase = .idle then .next (s.setReg n v).accepted else refuse .wrongState s
  else refuse .badRegister s

/-- The answer to a host read, kept in the host's notebook (log 3). -/
def State.answered (s : State) (r : Reply) : State := { s with replies := r :: s.replies }

/-- `PixRead(i)` (20_memory.md R52): in `DONE` and below `N`, the pixel, with no side effect; else refused, with no
data. -/
def pixRead (i : Nat) (s : State) : Result :=
  if s.phase = .done ∧ i < s.N then
    match s.pix.read i with
    | some w => .next (s.answered (.pixel w))
    | none => .fault .unwrittenPixel
  else refuse .notReadable (s.answered .noPixel)

/-- The reset event (70_reset_and_hazards.md R171, R172), in any state: every piece of the block's state at its reset
value. The queue, the script and the notebook are the host's and stay; the parameters are constant (log 3, log 4). -/
def State.afterReset (s : State) : State :=
  { State.reset with
    params := s.params, q := s.q, script := s.script, replies := s.replies, freeCount := s.freeCount }

end Sys2Proof.Machine
end

