-- ==== Sys2Proof/Machine/Agents.lean ====
section
/-! DEFINITION. The two agents' steps (10_state.md R15): a step of the block in each phase, a step of the host for each
of its operations, and the placing of an instruction where the next step finds it. -/

namespace Sys2Proof.Machine

/-! ### The block -/

/-- The control step of phase DECODE: fetch a control byte and run its instruction (40_rle_commands.md R85). -/
def controlStep (s : State) : Result :=
  fetchStreamByte s fun b s => exec (decodeControl b) s

/-- One step of phase DECODE, chosen by `RUN` and `CONSUMED` alone (40_rle_commands.md R85). `CONSUMED > LEN` is
reached by no run; the document's test "`consumed >= length`" (R87) decides it (DEDUCED, log 11: safe). -/
def decodeStep (s : State) : Result :=
  if s.run = 0#7 then
    if s.len ≤ s.consumed then exitStep s else controlStep s
  else payloadStep s

/-- One step of the block. In `IDLE`, `DONE` and `FAULT` it takes none (10_state.md R41, 42_frame_control.md R125,
60_exceptions.md R159): the state stays as it is (log 2: safe). -/
def blockStep (s : State) : Result :=
  match s.phase with
  | .idle => .next s
  | .palload => palloadStep s
  | .fill => fillStep s
  | .decode => decodeStep s
  | .flip => flipStep s
  | .done => .next s
  | .fault => .next s

/-! ### The host -/

/-- A write to `CMD` issues the command its value encodes; any other value is refused (10_state.md R24). -/
def commandWrite (v : Word) (s : State) : Result :=
  match decode (.command v) with
  | .ok i => exec i s
  | .error _ => refuse .unknownCommand s

/-- One operation of the host, atomic (20_memory.md R51, R56). The two entries that give the turn to the block are no
operation of their own and are handled by `agentStep`. -/
def hostOperation (op : HostOp) (s : State) : Result :=
  match op with
  | .regRead n => .next (s.answered (.reg (regRead s n)))
  | .regWrite n v => if n = 0 then commandWrite v s else regWrite n v s
  | .pixRead i => pixRead i s
  | .push t => .next { s with q := s.q ++ [t] }
  | .discard => .next { s with q := [] }
  | .reset => .next s.afterReset
  | .letBlock => blockStep s
  | .await => .next s

/-- One step of the unit and its host: the script says who moves (log 1: safe). With an empty script the block moves;
`await` gives the turn to the block while an operation is in progress. -/
def agentStep (s : State) : Result :=
  match s.script with
  | [] => blockStep s
  | op :: rest =>
    if op = .await ∧ s.phase.busy then blockStep s else hostOperation op { s with script := rest }

/-! ### Placing an instruction -/

/-- The descriptor with a frame of at least one pixel and room for `k` more bytes after `consumed`: what an accepted
`START` leaves a control step to find (42_frame_control.md R116). A field that already serves is left alone. -/
def roomFor (k : Nat) (consumed : BitVec 32) (d : Descriptor) : Descriptor :=
  { d with
    width := if d.width = 0#32 then 1#32 else d.width
    height := if d.height = 0#32 then 1#32 else d.height
    length := if consumed < d.length then d.length else consumed + BitVec.ofNat 32 k }

/-- The state in which the block's next step is the control step that takes these bytes (log 13). -/
def placeControl (bytes : List Byte) (s : State) : State :=
  let consumed := if 0xFFFFFF00#32 < s.consumed then 0#32 else s.consumed
  { s with
    phase := .decode
    run := 0#7
    consumed := consumed
    desc := roomFor bytes.length consumed s.desc
    q := bytes.map Token.byte ++ s.q
    script := .letBlock :: s.script }

/-- The state in which the host's next operation writes this value to `CMD` (log 13). -/
def placeCommand (v : Word) (s : State) : State :=
  { s with script := .regWrite 0 v :: s.script }

end Sys2Proof.Machine
end

