-- ==== Sys2Proof/Machine/Step.lean ====
section
/-! DEFINITION. The step of the machine, and where a word of the opcode table is placed for it. -/

namespace Sys2Proof.Machine

/-- One step: one block step or one host operation (10_state.md R15, 20_memory.md R56). -/
def step (s : State) : Host.Outcome State Fault Refusal := agentStep s

/-- The state with an instruction of the opcode table stored where `step` finds its next one (log 13). -/
def State.withFetchWord (s : State) (nbits w : Nat) : State :=
  if nbits = 32 then placeCommand (BitVec.ofNat 32 w) s else placeControl (controlBytes w) s

end Sys2Proof.Machine
end

