-- ==== Sys2Proof/Machine/Reference.lean ====
section
/-! DEFINITION. The document's decode loop, command by command (40_rle_commands.md R95), the frame as one function
(42_frame_control.md R127), and the informative encoder of 95_test_vectors.md part 4. No step of the machine calls
them: they are what the machine is compared with. -/

namespace Sys2Proof.Machine

/-- The arguments of `DecodeFrame` (42_frame_control.md R127), with the parameter `EMPTY_LIT`. -/
structure Frame where
  emptyLit  : EmptyLit
  pal       : Palette
  fill      : PixelWord
  isFlipped : Word
  width     : Word
  height    : Word
  length    : Word
  deriving DecidableEq, Repr

/-- The frame a state's registers describe. -/
def State.frame (s : State) : Frame :=
  { emptyLit := s.params.emptyLit, pal := s.pal, fill := s.fill, isFlipped := s.desc.isFlipped,
    width := s.desc.width, height := s.desc.height, length := s.desc.length }

/-- `W * H` of a frame. -/
def Frame.area (f : Frame) : Nat := f.width.toNat * f.height.toNat

/-- The variables of the document's loop, with the tokens not yet taken. -/
structure Loop where
  pos      : Nat
  consumed : Nat
  buf      : Memory
  rest     : List Token
  deriving DecidableEq, Repr

/-- How a piece of the loop ends: normally, with a fault, or for want of a token (42_frame_control.md R127: then the
function has no value and the block is stuck). -/
inductive LoopResult where
  | ok (l : Loop)
  | fault (k : FaultKind) (l : Loop)
  | starved (l : Loop)
  deriving DecidableEq, Repr

/-- Run a continuation on the result of a piece that ended normally. -/
def LoopResult.andThen (r : LoopResult) (k : Loop → LoopResult) : LoopResult :=
  match r with
  | .ok l => k l
  | .fault e l => .fault e l
  | .starved l => .starved l

/-- "next byte (End -> TruncatedRun, Err -> IoFailure); consumed <- consumed + 1" (40_rle_commands.md R95). -/
def Loop.nextByte (l : Loop) (k : Byte → Loop → LoopResult) : LoopResult :=
  match l.rest with
  | [] => .starved l
  | .err :: rest => .fault .ioFailure { l with rest := rest }
  | .eos :: rest => .fault .truncatedRun { l with rest := rest }
  | .byte b :: rest => k b { l with rest := rest, consumed := l.consumed + 1 }

/-- The loop over the payload bytes of a literal run, and the decrement after it (40_rle_commands.md R95). -/
def literalRun (f : Frame) : Nat → Loop → LoopResult
  | 0, l => .ok { l with pos := rowFill f.width.toNat l.pos }
  | n + 1, l =>
    if l.consumed = f.length.toNat then .fault .truncatedRun l
    else l.nextByte fun idx l =>
      if f.area ≤ l.pos then .fault .pixelOverrun l
      else literalRun f n { l with buf := l.buf.write l.pos (mapIndex f.pal idx), pos := l.pos + 1 }

/-- `LIT0` inside the loop, by `EMPTY_LIT` (40_rle_commands.md R94). -/
def emptyRun (f : Frame) (l : Loop) : LoopResult :=
  match f.emptyLit with
  | .fault => .fault .reservedCommand l
  | .nop => .ok l
  | .decrement =>
    if l.pos % f.width.toNat = 0 then
      if l.pos = 0 then .fault .reservedCommand l else .ok { l with pos := l.pos - 1 }
    else .ok l

/-- One command of the loop, its control byte already taken (40_rle_commands.md R95). -/
def loopCommand (f : Frame) (b : Byte) (l : Loop) : LoopResult :=
  if runFlag b then
    if count b = 0#7 then .ok { l with pos := nextRow f.width.toNat l.pos }
    else .ok { l with pos := l.pos + (count b).toNat }
  else if count b = 0#7 then emptyRun f l
  else literalRun f (count b).toNat l

/-- "while consumed < LEN" (40_rle_commands.md R95), with fuel for the recursion: every round takes a byte, so `LEN`
rounds are enough. -/
def commandLoop (f : Frame) : (fuel : Nat) → Loop → LoopResult
  | 0, l => .ok l
  | fuel + 1, l =>
    if l.consumed < f.length.toNat then
      l.nextByte fun b l => (loopCommand f b l).andThen (commandLoop f fuel)
    else .ok l

/-- `DecodeFrame` (42_frame_control.md R127): fill, loop, orientation. -/
def decodeFrame (f : Frame) (tokens : List Token) : LoopResult :=
  let buf := Memory.tabulate f.area fun _ => some f.fill
  (commandLoop f f.length.toNat { pos := 0, consumed := 0, buf := buf, rest := tokens }).andThen fun l =>
    if f.isFlipped = 0#32 then
      .ok { l with buf := Memory.tabulate f.area fun i => l.buf.read (mirror f.width.toNat f.height.toNat i) }
    else .ok l

/-! ### The informative encoder (95_test_vectors.md part 4) -/

/-- An image row in storage order: a palette index or transparent (`none`) per column. -/
abbrev Row := List (Option Byte)

/-- Put one entry before the commands of the entries after it, lengthening the first command while its count is
below 127. -/
def addEntry (e : Option Byte) (cs : List Command) : List Command :=
  match e with
  | none =>
    match cs with
    | .skip n :: rest => if n = 127#7 then .skip 1#7 :: .skip n :: rest else .skip (n + 1#7) :: rest
    | cs => .skip 1#7 :: cs
  | some i =>
    match cs with
    | .lit p :: rest => if p.length = 127 then .lit [i] :: .lit p :: rest else .lit (i :: p) :: rest
    | cs => .lit [i] :: cs

/-- A row without its trailing transparent entries. -/
def dropTrailing (r : Row) : Row := (r.reverse.dropWhile (·.isNone)).reverse

/-- A row's commands: skips and literal runs of at most 127, then `EOL`. -/
def encodeRow (r : Row) : List Command := (dropTrailing r).foldr addEntry [] ++ [.eol]

/-- The stream of an image, rows in storage order. -/
def encodeImage (rows : List Row) : List Byte := assemble (rows.flatMap encodeRow)

end Sys2Proof.Machine
end

