-- ==== Sys2Proof/Machine/Container.lean ====
section
/-! DEFINITION. The host's formats (43_host_formats.md): the container header, the frame offset table, the frame
header and a frame's tokens, read from a byte source. Outside the block's boundary (00_scope.md R4); no step of the
machine calls these functions. -/

namespace Sys2Proof.Machine

/-- A seekable, readable byte source (43_host_formats.md R131): its bytes, and from which offset on a read fails, if
any does (DESIGN CHOICE, log 15: safe). -/
structure Source where
  bytes     : List Byte
  failsFrom : Option Nat
  deriving DecidableEq, Repr

/-- One byte read at an offset: a byte, the end of the source, or a failed read (20_memory.md R50). -/
def Source.tokenAt (src : Source) (o : Nat) : Token :=
  match src.failsFrom with
  | some k => if k ≤ o then .err else match src.bytes[o]? with
    | some b => .byte b
    | none => .eos
  | none => match src.bytes[o]? with
    | some b => .byte b
    | none => .eos

/-- `n` bytes read at an offset, stopping at the first read that gives none (43_host_formats.md R140): the bytes as
tokens, then the `End` or `Err` met, if one was. -/
def Source.tokens (src : Source) : (o n : Nat) → List Token
  | _, 0 => []
  | o, n + 1 =>
    match src.tokenAt o with
    | .byte b => .byte b :: Source.tokens src (o + 1) n
    | .eos => [.eos]
    | .err => [.err]

/-- Why a word could not be read. -/
inductive ReadError where
  | short
  | failed
  deriving DecidableEq, Repr

/-- The little-endian value of four bytes in file order (20_memory.md R54, 43_host_formats.md R131). -/
def littleEndian (b0 b1 b2 b3 : Byte) : Word := b3 ++ b2 ++ b1 ++ b0

/-- A 32-bit little-endian word at a byte offset (43_host_formats.md R131). -/
def Source.word (src : Source) (o : Nat) : Except ReadError Word :=
  match src.tokens o 4 with
  | [.byte b0, .byte b1, .byte b2, .byte b3] => .ok (littleEndian b0 b1 b2 b3)
  | ts => if ts.contains .err then .error .failed else .error .short

/-- Consecutive words from a byte offset on. -/
def Source.words (src : Source) : (o n : Nat) → Except ReadError (List Word)
  | _, 0 => .ok []
  | o, n + 1 =>
    match src.word o with
    | .ok w =>
      match Source.words src (o + 4) n with
      | .ok ws => .ok (w :: ws)
      | .error e => .error e
    | .error e => .error e

/-- What a valid container header says (43_host_formats.md R132). -/
structure ContainerHeader where
  directions         : Word
  framesPerDirection : Word
  deriving DecidableEq, Repr

/-- The container header: six words, the first three 6, 1, 0, the fourth ignored (43_host_formats.md R132, R133). A
failed or short read is `IoFailure` (R136); all six words are read before any is checked (DESIGN CHOICE, log 15). -/
def Source.containerHeader (src : Source) : Except FaultKind ContainerHeader :=
  match src.words 0 6 with
  | .ok [w0, w1, w2, _, directions, framesPerDirection] =>
    if w0 = 6#32 ∧ w1 = 1#32 ∧ w2 = 0#32 then
      .ok { directions := directions, framesPerDirection := framesPerDirection }
    else .error .invalidHeader
  | .ok _ => .error .ioFailure
  | .error _ => .error .ioFailure

/-- The frame count, exact (43_host_formats.md R135). -/
def ContainerHeader.frameCount (h : ContainerHeader) : Nat := h.directions.toNat * h.framesPerDirection.toNat

/-- The position in the offset table of frame `f` of direction `d` (43_host_formats.md R134). -/
def ContainerHeader.tablePosition (h : ContainerHeader) (d f : Nat) : Nat := d * h.framesPerDirection.toNat + f

/-- The frame offset table, from byte 24 on (43_host_formats.md R134); a read failure is `IoFailure` (R136). -/
def Source.offsetTable (src : Source) (h : ContainerHeader) : Except FaultKind (List Word) :=
  match src.words 24 h.frameCount with
  | .ok ws => .ok ws
  | .error _ => .error .ioFailure

/-- The eight words of a frame header as a descriptor (43_host_formats.md R137, 30_encoding.md R78). -/
def descriptorOf : List Word → Option Descriptor
  | [w0, w1, w2, w3, w4, w5, w6, w7] =>
    some { isFlipped := w0, width := w1, height := w2, offsetX := w3, offsetY := w4, alwaysZero := w5,
           nextFrameIndex := w6, length := w7 }
  | _ => none

/-- The frame header at an offset (43_host_formats.md R137): running out of bytes is `TruncatedFrame`, any other
failure `IoFailure` (R138). -/
def Source.frameHeader (src : Source) (offset : Nat) : Except FaultKind Descriptor :=
  match src.words offset Config.fhWords with
  | .ok ws =>
    match descriptorOf ws with
    | some d => .ok d
    | none => .error .truncatedFrame
  | .error .short => .error .truncatedFrame
  | .error .failed => .error .ioFailure

/-- The tokens of a frame's stream: the `length` bytes after the 32-byte header, or those that exist and then `End` or
`Err` (43_host_formats.md R137, R140). -/
def Source.frameTokens (src : Source) (offset : Nat) (d : Descriptor) : List Token :=
  src.tokens (offset + 32) d.length.toNat

end Sys2Proof.Machine
end

