-- ==== Sys2Proof/Machine/Driver.lean ====
section
/-! DEFINITION. The host driving the block (43_host_formats.md sections 3 to 5): the operations it issues, and what a
file and a batch of files give. Outside the block's boundary (00_scope.md R4); no step of the machine calls these
functions. -/

namespace Sys2Proof.Machine

/-! ### The operations the host issues -/

/-- A command code written to `CMD` (30_encoding.md R75). -/
def issue (i : Instr) : HostOp :=
  match encode i with
  | .command v => .regWrite 0 v
  | .control b => .push (.byte b)

/-- Per run (43_host_formats.md R139): `PAL_LOAD`, the blob and `End`, and wait. -/
def paletteScript (blob : List Byte) : List HostOp :=
  issue .palLoad :: (blob.map fun b => HostOp.push (.byte b)) ++ [.push .eos, .await]

/-- The writes of the eight header words in file order, and of the tag (42_frame_control.md R113). -/
def descriptorScript (d : Descriptor) (tag : Word) : List HostOp :=
  [.regWrite 8 d.isFlipped, .regWrite 9 d.width, .regWrite 10 d.height, .regWrite 11 d.offsetX,
   .regWrite 12 d.offsetY, .regWrite 13 d.alwaysZero, .regWrite 14 d.nextFrameIndex, .regWrite 15 d.length,
   .regWrite 4 tag]

/-- Per frame, up to the end of the decode (43_host_formats.md R140). -/
def frameScript (d : Descriptor) (tag : Word) (tokens : List Token) : List HostOp :=
  descriptorScript d tag ++ tokens.map HostOp.push ++ [issue .start, .await]

/-- Per frame, after the wait (43_host_formats.md R140, R145): on `DONE` the tuple is read, pixels in index order; a
fault's kind is read from `STATUS`; both are acknowledged; the queue is emptied. A refused `START` leaves nothing to
acknowledge (R143; DEDUCED, log 15). -/
def afterFrameScript (s : State) : List HostOp :=
  match s.phase with
  | .done =>
    [.regRead 4, .regRead 9, .regRead 10] ++ (List.range s.N).map HostOp.pixRead ++ [issue .ack, .discard]
  | .fault => [.regRead 1, .regRead 4, issue .ack, .discard]
  | .idle | .palload | .fill | .decode | .flip => [.regRead 2, .discard]

/-! ### What a file gives -/

/-- What becomes of one frame: the tuple handed to the encoder, or a report of why the frame was skipped
(43_host_formats.md R143, R144). -/
inductive FrameReport where
  | emitted (out : Handoff)
  | faulted (frameIndex : Word) (kind : FaultKind)
  | refused (frameIndex : Word) (reason : RefusalReason)
  | starved (frameIndex : Word)
  deriving DecidableEq, Repr

/-- What a run fixes for all its frames: the parameters, the palette and the fill colour. -/
structure RunSetup where
  params : Params
  pal    : Palette
  fill   : PixelWord
  deriving DecidableEq, Repr

/-- The decode of one frame, its descriptor and tokens given: the checks of `START` that a loaded palette leaves
(42_frame_control.md R115), then the frame function (R127). -/
def decodeOne (r : RunSetup) (tag : Word) (d : Descriptor) (tokens : List Token) : FrameReport :=
  if d.width = 0#32 ∨ d.height = 0#32 then .refused tag .zeroArea
  else if r.params.maxPixels.toNat < d.width.toNat * d.height.toNat then .refused tag .frameTooLarge
  else
    let f : Frame := { emptyLit := r.params.emptyLit, pal := r.pal, fill := r.fill, isFlipped := d.isFlipped,
                       width := d.width, height := d.height, length := d.length }
    match decodeFrame f tokens with
    | .ok l => .emitted { frameIndex := tag, width := d.width, height := d.height,
                          pixels := (List.range f.area).filterMap l.buf.read }
    | .fault k _ => .faulted tag k
    | .starved _ => .starved tag

/-- One entry of the offset table: seek, read the header, decode (43_host_formats.md R140, R142); the frame index is
the position in the table, from zero (R141). -/
def decodeEntry (r : RunSetup) (src : Source) (tag : Word) (offset : Word) : FrameReport :=
  match src.frameHeader offset.toNat with
  | .ok d => decodeOne r tag d (src.frameTokens offset.toNat d)
  | .error k => .faulted tag k

/-- The entries of an offset table in table order, numbered from `k` (43_host_formats.md R140, R141). A position of `2^32`
or more, which `FRAME_INDEX` cannot hold and of which the spec says nothing, wraps modulo `2^32` in the tag and in the
report (DESIGN CHOICE, log 17: unsafe). -/
def decodeEntries (r : RunSetup) (src : Source) : (k : Nat) → List Word → List FrameReport
  | _, [] => []
  | k, o :: rest => decodeEntry r src (BitVec.ofNat 32 k) o :: decodeEntries r src (k + 1) rest

/-- Why a whole file is skipped (43_host_formats.md R133, R135, R136). -/
inductive FileError where
  | fault (kind : FaultKind)
  | tooManyFrames
  deriving DecidableEq, Repr

/-- One file (43_host_formats.md R142): header, table, frames; a frame's failure skips that frame only (R143). -/
def decodeFile (r : RunSetup) (maxFrames : Nat) (src : Source) : Except FileError (List FrameReport) :=
  match src.containerHeader with
  | .error k => .error (.fault k)
  | .ok h =>
    if maxFrames < h.frameCount then .error .tooManyFrames
    else match src.offsetTable h with
      | .error k => .error (.fault k)
      | .ok offsets => .ok (decodeEntries r src 0 offsets)

/-! ### The palette resource and a batch of files -/

/-- The palette resource as the host meets it (43_host_formats.md R139): its size cannot be found out, or it is a byte
source, of which reads may fail. -/
inductive PaletteResource where
  | unmeasurable
  | measured (src : Source)
  deriving DecidableEq, Repr

/-- The bytes of as many tokens as are bytes, or nothing where one is not. -/
def tokenBytes : List Token → Option (List Byte)
  | [] => some []
  | .byte b :: rest => (tokenBytes rest).map (b :: ·)
  | .eos :: _ => none
  | .err :: _ => none

/-- The blob the host obtains (43_host_formats.md R139): a resource that cannot be measured is the host's own
`InvalidPaletteSize`, one that cannot be read its `IoFailure` (DEDUCED, log 18). Whether a blob that was read has the right
size is not asked here. -/
def PaletteResource.blob (p : PaletteResource) : Except FaultKind (List Byte) :=
  match p with
  | .unmeasurable => .error .invalidPaletteSize
  | .measured src =>
    match tokenBytes (src.tokens 0 src.bytes.length) with
    | some blob => .ok blob
    | none => .error .ioFailure

/-- What the host does with the resource (43_host_formats.md R139): the load of the blob, or, where it has none, a fault of
its own without an operation on the block. -/
def paletteOperations (p : PaletteResource) : Except FaultKind (List HostOp) :=
  match p.blob with
  | .ok blob => .ok (paletteScript blob)
  | .error k => .error k

/-- The palette a blob gives (41_palette_mapper.md R102, R105, R106). -/
def buildPalette (blob : List Byte) : Except FaultKind Palette :=
  if blob.length = Config.palBlobBytes then
    .ok (commitPalette (Vector.ofFn fun i => blob.getD i.val 0#8))
  else .error .invalidPaletteSize

/-- The palette of a run: the blob obtained, then the load's size check (43_host_formats.md R139). -/
def PaletteResource.palette (p : PaletteResource) : Except FaultKind Palette :=
  match p.blob with
  | .ok blob => buildPalette blob
  | .error k => .error k

/-- A run over a batch of files (43_host_formats.md R139, R142, R143): a palette that cannot be had ends the run, a bad
file is skipped and the next is processed. -/
def decodeBatch (params : Params) (fill : PixelWord) (maxFrames : Nat) (resource : PaletteResource)
    (files : List Source) : Except FaultKind (List (Except FileError (List FrameReport))) :=
  match resource.palette with
  | .error k => .error k
  | .ok pal => .ok (files.map (decodeFile { params := params, pal := pal, fill := fill } maxFrames))

end Sys2Proof.Machine
end

