-- ==== Sys2Proof/Machine/Platform.lean ====
section
/-! DEFINITION. A platform of several units (00_scope.md R8, 60_exceptions.md R166): each has its own state and moves
on its own; nothing mutable is shared. -/

namespace Sys2Proof.Machine

/-- `NUM_UNITS` units, each with all the state of 10_state.md to itself (60_exceptions.md R166). -/
structure Platform where
  units : List State
  deriving DecidableEq, Repr

/-- One step of the unit at an index; the platform's scheduler picks the index (DESIGN CHOICE, log 14: safe). A
number without a unit changes nothing. -/
def Platform.stepUnit (p : Platform) (k : Nat) : Host.Outcome Platform Fault Refusal :=
  match p.units[k]? with
  | none => .next p
  | some s =>
    match step s with
    | .next t => .next { units := p.units.set k t }
    | .fault r => .fault r
    | .refused r => .refused r

/-- The one shared palette table (60_exceptions.md R166): loaded through one unit, read by all. Until the next reset it is
never written, so a copy in each idle unit is the same table (41_palette_mapper.md R110; log 14). What a reset of one
unit does to a table that others read, the spec does not say: here the other units keep their copy and their `PAL_VALID`,
also when the reset unit loads another palette (DESIGN CHOICE, log 16: unsafe). -/
def Platform.sharePalette (p : Platform) (k : Nat) : Platform :=
  match p.units[k]? with
  | none => p
  | some u =>
    if u.palValid then
      { units := p.units.map fun s =>
          if s.palValid ∨ s.phase ≠ .idle then s else { s with pal := u.pal, palValid := true } }
    else p

end Sys2Proof.Machine
end

