-- ==== Sys2Proof/Safety.lean ====
section
/-! DEFINITION. What counts as a safe run: the invariant every step keeps, the progress a safe state has, and what an
outside reader can learn of a state. -/

namespace Sys2Proof.Machine

/-- The phases of a frame, from the accepted `START` to the handoff (42_frame_control.md R112). -/
def Phase.inFrame : Phase → Bool
  | .idle => false
  | .palload => false
  | .fill => true
  | .decode => true
  | .flip => true
  | .done => true
  | .fault => false

/-- The phases in which `PIX` has a meaning: after the FILL step, up to the handoff (10_state.md R40). -/
def Phase.hasPixels : Phase → Bool
  | .idle => false
  | .palload => false
  | .fill => false
  | .decode => true
  | .flip => true
  | .done => true
  | .fault => false

/-- The most one command moves the cursor per byte it takes: `max(127, W)` (70_reset_and_hazards.md R185). -/
def State.stride (s : State) : Nat := max 127 s.W

/-- The invariant: every state a run from reset reaches satisfies it, and it rules out the states the rules of the
spec do not speak of. -/
structure State.Inv (s : State) : Prop where
  /-- The memory is canonical. -/
  pixWf : s.pix.wf
  /-- `1 <= MAX_PIXELS` (00_scope.md R6). -/
  paramsWf : s.params.wf
  /-- `FAULT` is non-zero exactly in state `FAULT` (10_state.md R25, R42). -/
  faultCode : s.faultKind ≠ .none ↔ s.phase = .fault
  /-- The block never raises the host's two kinds (60_exceptions.md R155). -/
  blockFaults : s.faultKind ≠ .invalidHeader ∧ s.faultKind ≠ .truncatedFrame
  /-- No palette is held while one is loaded (10_state.md R43). -/
  loading : s.phase = .palload → s.palValid = false
  /-- `PCNT` saturates at 769 (10_state.md R43). -/
  pcntLe : s.pcnt ≤ 769
  /-- What the checks of `START` establish for the whole frame (42_frame_control.md R116, R117). -/
  framed : s.phase.inFrame = true →
    s.palValid = true ∧ 1 ≤ s.W ∧ 1 ≤ s.H ∧ s.N ≤ s.params.maxPixels.toNat
  /-- `CONSUMED <= LEN` during a frame (40_rle_commands.md R86; log 12). -/
  consumedLe : s.phase.inFrame = true → s.consumed ≤ s.len
  /-- Every command raises `POS` by at most `max(127, W)` per byte taken (70_reset_and_hazards.md R185). -/
  posStride : s.phase.inFrame = true → s.pos ≤ s.consumed.toNat * s.stride
  /-- `POS <= (2^32 - 1)^2` at all times (10_state.md R19, 70_reset_and_hazards.md R185). -/
  posLe : s.pos ≤ (2 ^ 32 - 1) ^ 2
  /-- What an accepted `START` leaves (42_frame_control.md R118). -/
  filling : s.phase = .fill → s.pos = 0 ∧ s.consumed = 0#32 ∧ s.run = 0#7
  /-- Exactly the words below `N` are written once the FILL step is done (42_frame_control.md R119). -/
  filled : s.phase.hasPixels = true → ∀ i, (s.pix.read i).isSome = true ↔ i < s.N
  /-- A decode that ended took exactly `LEN` bytes, between commands (40_rle_commands.md R87). -/
  finished : s.phase = .flip ∨ s.phase = .done → s.consumed = s.len ∧ s.run = 0#7

/-- A state has progress: its step answers a next state, neither a fault of the model nor a refusal. -/
def State.Steps (s : State) : Prop := ∃ t, step s = .next t

/-- The staged bytes already taken, zero beyond them. -/
def takenBytes (k : Nat) (stage : Staging) : Staging :=
  Vector.ofFn fun i : Fin 768 => if i.val < k then stage[i.val] else 0#8

/-- A state with everything the spec leaves unspecified at that point erased: `PAL` while `PAL_VALID = 0` (10_state.md
R39), `PCNT` and `PSTAGE` outside `PALLOAD` and the bytes not yet taken inside it (R43), `PIX` outside `DECODE`, `FLIP`
and `DONE` (R40), and the model's counter of free values. -/
def State.determined (s : State) : State :=
  { s with
    pal := if s.palValid then s.pal else State.reset.pal
    pcnt := if s.phase = .palload then s.pcnt else 0
    pstage := if s.phase = .palload then takenBytes s.pcnt s.pstage else State.reset.pstage
    pix := if s.phase.hasPixels then s.pix else []
    freeCount := 0 }

end Sys2Proof.Machine
end

