-- ==== Sys2Proof/Certificates/Slice0/Obligations.lean ====
section
/-! DEFINITION. The statements for the provers. The docstring of each names the rules it formalises. -/

open Sys2Proof Sys2Proof.Machine

/-! ### Encoding -/

/-- Words written out bit by bit from 30_encoding.md R70 and R75 decode to the instruction they stand for. -/
def Obligations.SpecWordsDecodeToTheirInstructions : Prop :=
  decode (.control 0b10000000#8) = .ok .eol ∧
  decode (.control 0b10000001#8) = .ok (.skip 1#7) ∧
  decode (.control 0b11111111#8) = .ok (.skip 127#7) ∧
  decode (.control 0b00000000#8) = .ok .lit0 ∧
  decode (.control 0b00000001#8) = .ok (.lit 1#7) ∧
  decode (.control 0b01111111#8) = .ok (.lit 127#7) ∧
  decode (.command 0x00000001#32) = .ok .palLoad ∧
  decode (.command 0x00000002#32) = .ok .start ∧
  decode (.command 0x00000003#32) = .ok .ack ∧
  decode (.command 0x00000000#32) = .error (.unknownCommand 0#32) ∧
  decode (.command 0x00000004#32) = .error (.unknownCommand 4#32)

/-- The two fields of a control byte (30_encoding.md R67, R69): bit 7, and the low seven bits unscaled. -/
def Obligations.ControlByteHasFlagAndCount : Prop :=
  ∀ b : Byte, runFlag b = b.getLsbD 7 ∧ (count b).toNat = b.toNat % 128

/-- Encoding and decoding agree (30_encoding.md R70, R75): every well-formed instruction is what its code word decodes
to, and every control byte is the code word of the well-formed instruction it decodes to, so that all 256 values are
accounted for. -/
def Obligations.EncodeAndDecodeAgree : Prop :=
  (∀ i : Instr, i.wellFormed = true → decode (encode i) = .ok i) ∧
  (∀ b : Byte, (decodeControl b).wellFormed = true ∧ encode (decodeControl b) = .control b)

/-- The decoder agrees with the opcode table, rows applied in the order given (30_encoding.md R84). -/
def Obligations.OpcodeTableNamesTheDecodedInstruction : Prop :=
  (∀ b : Byte, lookupMnemonic 8 (b.setWidth 32) = some (decodeControl b).mnemonic) ∧
  (∀ v : Word, ∀ i, decode (.command v) = .ok i → lookupMnemonic 32 v = some i.mnemonic) ∧
  (∀ v : Word, ∀ e, decode (.command v) = .error e → lookupMnemonic 32 v = none)

/-- A stream assembled from commands parses back into them, with a truncated `LIT` allowed at the end (30_encoding.md
R73, R74, R83). -/
def Obligations.ParseInvertsAssembly : Prop :=
  parse [] = [] ∧
  ∀ (cs : List Command) (c : Command), (∀ x ∈ cs, x.wellFormed = true) → c.wellFormedLast = true →
    parse (assemble (cs ++ [c])) = cs ++ [c]

/-- Every byte sequence parses, into commands that are well formed but for a truncated `LIT`, and no byte is lost
(30_encoding.md R74, R83). -/
def Obligations.AssemblyInvertsParse : Prop :=
  ∀ bytes : List Byte, assemble (parse bytes) = bytes ∧ ∀ c ∈ parse bytes, c.wellFormedLast = true

/-! ### A step runs the decoded instruction -/

/-- Where a control byte is due and there, a step is the instruction of that byte, run on the state with the byte
taken and counted; where the host's next operation writes a command to `CMD`, a step is that command's instruction.
With an empty script or a `letBlock` the block moves (40_rle_commands.md R85, 10_state.md R24; the script is the model's,
log 1). -/
def Obligations.StepRunsTheDecodedInstruction : Prop :=
  (∀ (s : State) (b : Byte) (rest : List Token), s.script = [] → s.phase = .decode → s.run = 0#7 →
    s.consumed < s.len → s.q = .byte b :: rest →
    step s = exec (decodeControl b) { s with q := rest, consumed := s.consumed + 1#32 }) ∧
  (∀ (s : State) (ops : List HostOp), s.script = .letBlock :: ops → step s = blockStep { s with script := ops }) ∧
  (∀ s : State, s.script = [] → step s = blockStep s) ∧
  (∀ (s : State) (v : Word) (i : Instr) (ops : List HostOp), s.script = .regWrite 0 v :: ops →
    decode (.command v) = .ok i → step s = exec i { s with script := ops })

/-! ### The RLE commands -/

/-- `SKIP n` (40_rle_commands.md R88): the cursor moves by the count and nothing else changes, in every state. -/
def Obligations.SkipAdvancesTheCursor : Prop :=
  ∀ (n : BitVec 7) (s : State), exec (.skip n) s = .next { s with pos := s.pos + n.toNat }

/-- `EOL` (40_rle_commands.md R89): the cursor jumps to the first pixel of the next row and nothing else changes. -/
def Obligations.EolJumpsToTheNextRow : Prop :=
  ∀ s : State, 1 ≤ s.W →
    ∃ p, exec .eol s = .next { s with pos := p } ∧ p = (s.pos / s.W + 1) * s.W ∧
      p % s.W = 0 ∧ s.pos < p ∧ p ≤ s.pos + s.W

/-- `EOL` arithmetic (40_rle_commands.md R98, which the spec derives from R89). -/
def Obligations.EolAddsTheRestOfTheRow : Prop :=
  ∀ w pos : Nat, 1 ≤ w →
    nextRow w pos % w = 0 ∧ nextRow w pos = pos + w - pos % w ∧ (nextRow w pos = pos + w ↔ pos % w = 0)

/-- With a zero width, which no run reaches, `EOL` stops the model, and so does `LIT0` under `decrement`: the model's
choice, log 9. -/
def Obligations.ZeroWidthStopsTheRowCommands : Prop :=
  ∀ s : State, s.W = 0 →
    exec .eol s = .fault .zeroWidth ∧
    (s.params.emptyLit = .decrement → exec .lit0 s = .fault .zeroWidth)

/-- `LIT n`, control step (40_rle_commands.md R90): only the run counter changes, in every state. -/
def Obligations.LitSetsTheRunCounter : Prop :=
  ∀ (n : BitVec 7) (s : State), exec (.lit n) s = .next { s with run := n }

/-- `LIT0` by `EMPTY_LIT` (40_rle_commands.md R94). -/
def Obligations.ReservedByteFollowsEmptyLit : Prop :=
  ∀ s : State,
    (s.params.emptyLit = .fault → exec .lit0 s = raise .reservedCommand s) ∧
    (s.params.emptyLit = .nop → exec .lit0 s = .next s) ∧
    (s.params.emptyLit = .decrement → 1 ≤ s.W →
      (s.pos % s.W = 0 → s.pos = 0 → exec .lit0 s = raise .reservedCommand s) ∧
      (s.pos % s.W = 0 → s.pos ≠ 0 → exec .lit0 s = .next { s with pos := s.pos - 1 }) ∧
      (s.pos % s.W ≠ 0 → exec .lit0 s = .next s))

/-- The payload step (40_rle_commands.md R92, 60_exceptions.md R156), its conditions in the order they are tested. The
byte that is written is taken and counted, the pixel at the cursor is the palette colour, the cursor moves by one, and by
one less when the run ends on a row boundary. (With an empty queue the block has no step.) -/
def Obligations.PayloadStepWritesOnePixelOrFaults : Prop :=
  ∀ s : State, s.script = [] → s.phase = .decode → s.run ≠ 0#7 →
    (s.consumed = s.len → step s = raise .truncatedRun s) ∧
    (s.consumed < s.len → ∀ rest : List Token,
        (s.q = .err :: rest → step s = raise .ioFailure { s with q := rest }) ∧
        (s.q = .eos :: rest → step s = raise .truncatedRun { s with q := rest }) ∧
        (∀ idx, s.q = .byte idx :: rest → s.N ≤ s.pos →
          step s = raise .pixelOverrun { s with q := rest, consumed := s.consumed + 1#32 }) ∧
        (∀ idx, s.q = .byte idx :: rest → s.pos < s.N → ∃ t, step s = .next t ∧
          t.pix.read s.pos = some (mapIndex s.pal idx) ∧
          (∀ i, i ≠ s.pos → t.pix.read i = s.pix.read i) ∧
          t.run.toNat = s.run.toNat - 1 ∧
          t.pos = (if s.run = 1#7 ∧ (s.pos + 1) % s.W = 0 then s.pos + 1 - 1 else s.pos + 1) ∧
          { t with pix := s.pix, run := s.run, pos := s.pos } =
            { s with q := rest, consumed := s.consumed + 1#32 }))

/-- The control fetch that faults (40_rle_commands.md R85, 60_exceptions.md R150, R153). -/
def Obligations.ControlFetchFaultsWithoutAByte : Prop :=
  ∀ (s : State) (rest : List Token), s.script = [] → s.phase = .decode → s.run = 0#7 → s.consumed < s.len →
    (s.q = .err :: rest → step s = raise .ioFailure { s with q := rest }) ∧
    (s.q = .eos :: rest → step s = raise .truncatedRun { s with q := rest })

/-- The exit step (40_rle_commands.md R87): no token is taken, whatever is queued and wherever the cursor is. -/
def Obligations.ExitStepEndsTheDecode : Prop :=
  ∀ s : State, s.script = [] → s.phase = .decode → s.run = 0#7 → s.consumed = s.len →
    step s = .next { s with phase := .flip }

/-- A literal run as a whole (40_rle_commands.md R91, which the spec derives from R90 and R92). -/
def Obligations.LiteralRunWritesItsPixels : Prop :=
  ∀ (s : State) (n : BitVec 7) (payload : List Byte) (rest : List Token),
    s.script = [] → s.phase = .decode → s.run = 0#7 → n ≠ 0#7 → payload.length = n.toNat →
    s.q = .byte (0#1 ++ n) :: payload.map Token.byte ++ rest →
    s.consumed.toNat + 1 + n.toNat ≤ s.len.toNat → s.pos + n.toNat ≤ s.N →
    ∃ t : State, core.run (1 + n.toNat) s = .next t ∧
      (∀ k b, payload[k]? = some b → t.pix.read (s.pos + k) = some (mapIndex s.pal b)) ∧
      (∀ i, i < s.pos ∨ s.pos + n.toNat ≤ i → t.pix.read i = s.pix.read i) ∧
      t.pos = (if (s.pos + n.toNat) % s.W = 0 then s.pos + n.toNat - 1 else s.pos + n.toNat) ∧
      t.consumed.toNat = s.consumed.toNat + 1 + n.toNat ∧
      { t with pix := s.pix, pos := s.pos, consumed := s.consumed } = { s with q := rest }

/-- The cursor never moves back in a step of DECODE, unless `EMPTY_LIT` is `decrement` (40_rle_commands.md
R96, which the spec derives from R88 to R94). -/
def Obligations.CursorNeverDecreases : Prop :=
  ∀ s t : State, s.script = [] → s.phase = .decode → s.params.emptyLit ≠ .decrement → step s = .next t →
    s.pos ≤ t.pos

/-- The frame of the four control bytes: everything but the cursor (`EOL`, `SKIP`, `LIT0`) or the run counter (`LIT`)
is unchanged, unless `LIT0` raises its fault, which is fault entry and nothing else. -/
def Obligations.ControlByteFrame : Prop :=
  ∀ s t : State,
    (exec .eol s = .next t → { t with pos := s.pos } = s ∧ ∀ i, t.pix.read i = s.pix.read i) ∧
    (∀ n, exec (.skip n) s = .next t → { t with pos := s.pos } = s ∧ ∀ i, t.pix.read i = s.pix.read i) ∧
    (∀ n, exec (.lit n) s = .next t → { t with run := s.run } = s ∧ ∀ i, t.pix.read i = s.pix.read i) ∧
    (exec .lit0 s = .next t →
      ({ t with pos := s.pos } = s ∧ ∀ i, t.pix.read i = s.pix.read i) ∨ t = s.faulted .reservedCommand)

/-- A block step writes the pixel buffer only as its phase says: in DECODE at the cursor and only in a literal run, in
PALLOAD and in the phases without a step nowhere (10_state.md R40). -/
def Obligations.BlockWritesPixelsOnlyAtTheCursor : Prop :=
  ∀ s t : State, blockStep s = .next t → t.phase ≠ .fault →
    (s.phase = .decode → ∀ i, i ≠ s.pos ∨ s.run = 0#7 → t.pix.read i = s.pix.read i) ∧
    (s.phase = .palload ∨ s.phase = .idle ∨ s.phase = .done → ∀ i, t.pix.read i = s.pix.read i)

/-- Each stream byte is counted once, and nothing else moves the counter or the queue (40_rle_commands.md R86,
20_memory.md R50): a block step takes at most one token, and in DECODE it counts exactly the bytes it takes. -/
def Obligations.BytesAreCountedOnce : Prop :=
  ∀ s t : State, blockStep s = .next t →
    (t.q = s.q ∧ t.consumed = s.consumed) ∨
    (∃ b, s.q = .byte b :: t.q ∧ s.phase = .decode ∧ t.consumed = s.consumed + 1#32 ∧ s.consumed < s.len) ∨
    (∃ tok, s.q = tok :: t.q ∧ t.consumed = s.consumed ∧
      (s.phase = .palload ∨ (s.phase = .decode ∧ (tok = .eos ∨ tok = .err))))

/-! ### The palette -/

/-- `PAL_LOAD` (41_palette_mapper.md R103): accepted in `IDLE` without a palette, refused otherwise. -/
def Obligations.PalLoadBeginsALoad : Prop :=
  ∀ s : State,
    (s.phase = .idle → s.palValid = false →
      exec .palLoad s = .next { s with pcnt := 0, phase := .palload, refusal := .none }) ∧
    (s.phase ≠ .idle → exec .palLoad s = .next { s with refusal := .wrongState }) ∧
    (s.phase = .idle → s.palValid = true → exec .palLoad s = .next { s with refusal := .paletteLocked })

/-- The PALLOAD step (41_palette_mapper.md R104): a byte is staged below 768 and counted up to 769; `Err` ends the load
with `IoFailure` and no palette. -/
def Obligations.BlobBytesAreStaged : Prop :=
  ∀ (s : State) (rest : List Token), s.script = [] → s.phase = .palload →
    (∀ b, s.q = .byte b :: rest → ∃ t, step s = .next t ∧
      (∀ k (h : k < 768), t.pstage[k] = if k = s.pcnt then b else s.pstage[k]) ∧
      t.pcnt = (if s.pcnt < 769 then s.pcnt + 1 else s.pcnt) ∧
      { t with pstage := s.pstage, pcnt := s.pcnt } = { s with q := rest }) ∧
    (s.q = .err :: rest → ∃ t, step s = .next t ∧
      t.palValid = false ∧ t.faultKind = .ioFailure ∧ t.phase = .fault ∧ t.q = rest ∧
      t.pos = s.pos ∧ t.consumed = s.consumed ∧ t.run = s.run ∧ t.pcnt = s.pcnt ∧
      t.desc = s.desc ∧ t.fill = s.fill ∧ t.frameIndex = s.frameIndex ∧ t.refusal = s.refusal)

/-- End of blob (41_palette_mapper.md R105, R106): with exactly 768 bytes the palette is committed and the block is
`IDLE`; with any other number the load fails with `InvalidPaletteSize` and no palette (60_exceptions.md R149). -/
def Obligations.EndOfBlobChecksTheSize : Prop :=
  ∀ (s : State) (rest : List Token), s.script = [] → s.phase = .palload → s.q = .eos :: rest →
    (s.pcnt = 768 → ∃ t, step s = .next t ∧
      (∀ i (h : i < 256), t.pal[i].b = s.pstage[3 * i] ∧ t.pal[i].g = s.pstage[3 * i + 1] ∧
        t.pal[i].r = s.pstage[3 * i + 2]) ∧
      { t with pal := s.pal } = { s with q := rest, palValid := true, phase := .idle }) ∧
    (s.pcnt ≠ 768 → ∃ t, step s = .next t ∧
      t.palValid = false ∧ t.faultKind = .invalidPaletteSize ∧ t.phase = .fault ∧ t.q = rest ∧
      t.pos = s.pos ∧ t.consumed = s.consumed ∧ t.run = s.run ∧ t.pcnt = s.pcnt ∧
      t.desc = s.desc ∧ t.fill = s.fill ∧ t.frameIndex = s.frameIndex ∧ t.refusal = s.refusal)

/-- The whole load (41_palette_mapper.md R102, R104 to R106): a blob of exactly 768 bytes becomes the palette, BGR triples
in blob order read as RGB entries; a blob of any other length is taken whole and leaves no palette. -/
def Obligations.WholeBlobBecomesThePalette : Prop :=
  ∀ (s : State) (blob : List Byte) (rest : List Token), s.script = [] → s.phase = .palload → s.pcnt = 0 →
    s.q = blob.map Token.byte ++ .eos :: rest →
    ∃ t : State, core.run (blob.length + 1) s = .next t ∧ t.q = rest ∧
      (blob.length = 768 → t.phase = .idle ∧ t.palValid = true ∧ t.faultKind = s.faultKind ∧
        ∀ i (h : i < 256), blob[3 * i]? = some t.pal[i].b ∧ blob[3 * i + 1]? = some t.pal[i].g ∧
          blob[3 * i + 2]? = some t.pal[i].r) ∧
      (blob.length ≠ 768 → t.phase = .fault ∧ t.palValid = false ∧ t.faultKind = .invalidPaletteSize)

/-- `Map(idx)` (41_palette_mapper.md R108): red, green and blue of the entry and full opacity, in the layout of
30_encoding.md R79. -/
def Obligations.MapIndexPacksOpaqueRgba : Prop :=
  ∀ (pal : Palette) (idx : Byte) (h : idx.toNat < 256),
    (mapIndex pal idx).toNat = pal[idx.toNat].r.toNat * 2 ^ 24 + pal[idx.toNat].g.toNat * 2 ^ 16 +
      pal[idx.toNat].b.toNat * 2 ^ 8 + 0xFF

/-- From a successful load to the next reset no step writes the palette (41_palette_mapper.md R110, 10_state.md R38). The
invariant rules out a palette held while one is loaded. -/
def Obligations.LoadedPaletteIsImmutable : Prop :=
  ∀ s t : State, s.Inv → s.palValid = true → s.script.head? ≠ some .reset → step s = .next t →
    t.pal = s.pal ∧ t.palValid = true

/-! ### Frame control -/

/-- `START` (42_frame_control.md R115, R116, R117, R118): the checks in order, the first that fails gives the reason,
and a refused command changes nothing else; the accepted command begins the frame. -/
def Obligations.StartChecksThenBeginsTheFrame : Prop :=
  ∀ s : State,
    (s.phase = .idle → s.palValid = true → s.desc.width ≠ 0#32 → s.desc.height ≠ 0#32 →
      s.desc.width.toNat * s.desc.height.toNat ≤ s.params.maxPixels.toNat →
      exec .start s =
        .next { s with pos := 0, consumed := 0#32, run := 0#7, refusal := .none, phase := .fill }) ∧
    (s.phase ≠ .idle → exec .start s = .next { s with refusal := .wrongState }) ∧
    (s.phase = .idle → s.palValid = false → exec .start s = .next { s with refusal := .noPalette }) ∧
    (s.phase = .idle → s.palValid = true → s.desc.width = 0#32 ∨ s.desc.height = 0#32 →
      exec .start s = .next { s with refusal := .zeroArea }) ∧
    (s.phase = .idle → s.palValid = true → s.desc.width ≠ 0#32 → s.desc.height ≠ 0#32 →
      s.params.maxPixels.toNat < s.desc.width.toNat * s.desc.height.toNat →
      exec .start s = .next { s with refusal := .frameTooLarge })

/-- `ACK` (42_frame_control.md R126, 60_exceptions.md R159): in `DONE` and `FAULT` the block returns to `IDLE` with every
register kept; elsewhere the command is refused. What `PIX` holds after is unspecified. -/
def Obligations.AckReleasesTheBlock : Prop :=
  ∀ s : State,
    (s.phase = .done ∨ s.phase = .fault → ∃ t, exec .ack s = .next t ∧
      t.faultKind = .none ∧ t.refusal = .none ∧ t.phase = .idle ∧
      { t with faultKind := s.faultKind, refusal := s.refusal, phase := s.phase, pix := s.pix } = s) ∧
    (s.phase ≠ .done → s.phase ≠ .fault → exec .ack s = .next { s with refusal := .wrongState })

/-- The frame of the host commands: no command touches the palette, the descriptor, the fill colour, the tag, the staged
bytes, the queue or the parameters; only `START` touches the cursor, the counter and the run; `PAL_LOAD` and `START`
leave every pixel word as it was. -/
def Obligations.HostCommandFrame : Prop :=
  ∀ (i : Instr) (s t : State), i = .palLoad ∨ i = .start ∨ i = .ack → exec i s = .next t →
    t.pal = s.pal ∧ t.palValid = s.palValid ∧ t.desc = s.desc ∧ t.fill = s.fill ∧ t.frameIndex = s.frameIndex ∧
    t.pstage = s.pstage ∧ t.q = s.q ∧ t.params = s.params ∧
    (i ≠ .start → t.pos = s.pos ∧ t.consumed = s.consumed ∧ t.run = s.run) ∧
    (i ≠ .palLoad → t.pcnt = s.pcnt) ∧
    (i ≠ .ack → t.faultKind = s.faultKind ∧ ∀ a, t.pix.read a = s.pix.read a)

/-- The FILL step (42_frame_control.md R119): every word of the frame holds the fill colour, no token is taken, and only
`PIX` and `STATE` change. -/
def Obligations.FillInitialisesEveryPixel : Prop :=
  ∀ s : State, s.script = [] → s.phase = .fill →
    ∃ t, step s = .next t ∧ t.phase = .decode ∧ (∀ i, i < s.N → t.pix.read i = some s.fill) ∧
      { t with pix := s.pix, phase := s.phase } = s

/-- The FLIP step (42_frame_control.md R122): rows are reversed as wholes when `isFlipped` is zero, the buffer is left
alone when any of its 32 bits is set, and only `PIX` and `STATE` change. -/
def Obligations.FlipReversesRowsWhenNotFlipped : Prop :=
  ∀ s : State, s.script = [] → s.phase = .flip →
    ∃ t, step s = .next t ∧ t.phase = .done ∧
      (s.desc.isFlipped = 0#32 → ∀ y x, y < s.H → x < s.W →
        t.pix.read (y * s.W + x) = s.pix.read ((s.H - 1 - y) * s.W + x)) ∧
      (s.desc.isFlipped ≠ 0#32 → t.pix = s.pix) ∧
      { t with pix := s.pix, phase := s.phase } = s

/-- Row reversal permutes the buffer, and applied twice it restores it; with one row it is the identity, and with an odd
height the middle row stays (42_frame_control.md R123, which the spec derives from R122). -/
def Obligations.RowReversalIsAnInvolution : Prop :=
  ∀ w h i : Nat, i < w * h →
    mirror w h i < w * h ∧ mirror w h (mirror w h i) = i ∧ mirror w h i % w = i % w ∧
    (h = 1 → mirror w h i = i) ∧ (2 * (i / w) + 1 = h → mirror w h i = i)

/-- The handoff tuple (30_encoding.md R80, 42_frame_control.md R125): in `DONE`, the tag, the size and all `N` pixels in
index order; in every other state, nothing. -/
def Obligations.HandoffIsTheWholeFrame : Prop :=
  ∀ s : State, s.Inv →
    (s.phase = .done → ∃ out, s.handoff = some out ∧ out.frameIndex = s.frameIndex ∧ out.width = s.desc.width ∧
      out.height = s.desc.height ∧ out.pixels.length = s.N ∧ ∀ i, i < s.N → out.pixels[i]? = s.pix.read i) ∧
    (s.phase ≠ .done → s.handoff = none)

/-! ### The register interface -/

/-- The fields of `STATUS` (10_state.md R25) with every code of 10_state.md R41 and 60_exceptions.md R148 as a number, its
upper bits zero, and `irq` (60_exceptions.md R161). -/
def Obligations.StatusShowsStatePaletteAndFault : Prop :=
  ∀ s : State,
    (regRead s 1).extractLsb' 0 3 =
      (match s.phase with
        | .idle => 0#3
        | .palload => 1#3
        | .fill => 2#3
        | .decode => 3#3
        | .flip => 4#3
        | .done => 5#3
        | .fault => 6#3) ∧
    (regRead s 1).getLsbD 3 = s.palValid ∧
    (regRead s 1).extractLsb' 4 4 =
      (match s.faultKind with
        | .none => 0#4
        | .invalidPaletteSize => 1#4
        | .invalidHeader => 2#4
        | .truncatedFrame => 3#4
        | .truncatedRun => 4#4
        | .pixelOverrun => 5#4
        | .ioFailure => 6#4
        | .reservedCommand => 7#4) ∧
    (regRead s 1).extractLsb' 8 24 = 0#24 ∧
    (s.irq = true ↔ (regRead s 1).extractLsb' 0 3 = 5#3 ∨ (regRead s 1).extractLsb' 0 3 = 6#3)

/-- `CMD` and the reserved register numbers read as zero, and a write to a reserved number is refused with `BadRegister`
and has no other effect (10_state.md R24, R37). -/
def Obligations.ReservedRegistersReadZero : Prop :=
  ∀ (s : State) (n : Nat) (v : Word) (ops : List HostOp), n = 5 ∨ n = 6 ∨ n = 7 ∨ 20 ≤ n →
    regRead s n = 0#32 ∧ regRead s 0 = 0#32 ∧
    (s.script = .regWrite n v :: ops → step s = .next { s with script := ops, refusal := .badRegister })

/-- The register map (10_state.md R23, R26 to R35): what each readable number but `STATUS` gives. `REFUSAL` reads as the
code of its reason (60_exceptions.md R158), zero above bits 3:0; the cursor is read as two halves that together are its
value while it fits 64 bits. -/
def Obligations.RegisterMapReads : Prop :=
  ∀ s : State,
    regRead s 2 =
      (match s.refusal with
        | .none => 0#32
        | .wrongState => 1#32
        | .noPalette => 2#32
        | .zeroArea => 3#32
        | .frameTooLarge => 4#32
        | .paletteLocked => 5#32
        | .unknownCommand => 6#32
        | .notReadable => 7#32
        | .badRegister => 8#32) ∧
    regRead s 3 = s.fill ∧ regRead s 4 = s.frameIndex ∧
    regRead s 8 = s.desc.isFlipped ∧ regRead s 9 = s.desc.width ∧ regRead s 10 = s.desc.height ∧
    regRead s 11 = s.desc.offsetX ∧ regRead s 12 = s.desc.offsetY ∧ regRead s 13 = s.desc.alwaysZero ∧
    regRead s 14 = s.desc.nextFrameIndex ∧ regRead s 15 = s.desc.length ∧
    (s.pos < 2 ^ 64 → (regRead s 17).toNat * 2 ^ 32 + (regRead s 16).toNat = s.pos) ∧
    regRead s 18 = s.consumed ∧ (regRead s 19).toNat = s.run.toNat

/-- A host read of a register or of a pixel has no side effect on the unit: only the host's own script and notebook
change, and `REFUSAL` where the pixel read is refused (20_memory.md R51, R52, 10_state.md R26). -/
def Obligations.HostReadsHaveNoSideEffect : Prop :=
  ∀ (s : State) (n : Nat) (ops : List HostOp),
    (s.script = .regRead n :: ops →
      step s = .next { s with script := ops, replies := .reg (regRead s n) :: s.replies }) ∧
    (s.script = .pixRead n :: ops → s.phase = .done → n < s.N → ∀ w, s.pix.read n = some w →
      step s = .next { s with script := ops, replies := .pixel w :: s.replies }) ∧
    (s.script = .pixRead n :: ops → s.phase ≠ .done ∨ s.N ≤ n →
      step s = .next { s with script := ops, replies := .noPixel :: s.replies, refusal := .notReadable })

/-- Write access by state (10_state.md R36): in `IDLE` a writable register takes the value, which is then read back, every
other register but `REFUSAL` reads as before, and nothing but the registers changes; outside `IDLE` the write is refused;
a read-only register is refused in every state. -/
def Obligations.RegisterWritesFollowTheState : Prop :=
  ∀ (s : State) (n : Nat) (v : Word) (ops : List HostOp), s.script = .regWrite n v :: ops →
    (n = 3 ∨ n = 4 ∨ (8 ≤ n ∧ n ≤ 15) → s.phase = .idle → ∃ t, step s = .next t ∧ regRead t n = v ∧
      t.refusal = .none ∧ (∀ m, m ≠ n → m ≠ 2 → regRead t m = regRead s m) ∧
      { t with fill := s.fill, frameIndex := s.frameIndex, desc := s.desc, refusal := s.refusal } =
        { s with script := ops }) ∧
    (n = 3 ∨ n = 4 ∨ (8 ≤ n ∧ n ≤ 15) → s.phase ≠ .idle →
      step s = .next { s with script := ops, refusal := .wrongState }) ∧
    (n = 1 ∨ n = 2 ∨ (16 ≤ n ∧ n ≤ 19) → step s = .next { s with script := ops, refusal := .badRegister })

/-- A write of any other value to `CMD` is refused with `UnknownCommand`; the whole 32-bit value is compared
(10_state.md R24). -/
def Obligations.UnknownCommandIsRefused : Prop :=
  ∀ (s : State) (v : Word) (ops : List HostOp), s.script = .regWrite 0 v :: ops →
    v ≠ 1#32 → v ≠ 2#32 → v ≠ 3#32 → step s = .next { s with script := ops, refusal := .unknownCommand }

/-- A refused register write or command has exactly one effect, the reason in `REFUSAL` (60_exceptions.md R157); an
accepted one leaves it zero (10_state.md R26). -/
def Obligations.RefusedWriteOnlySetsTheReason : Prop :=
  ∀ (s t : State) (n : Nat) (v : Word) (ops : List HostOp), s.script = .regWrite n v :: ops → step s = .next t →
    t.refusal ≠ .none → t = { s with script := ops, refusal := t.refusal }

/-- The host's side of the input port (20_memory.md R49, R50): tokens queue up behind those there, and the host can empty
the queue (70_reset_and_hazards.md R179); nothing else changes. Waiting ends when no operation is in progress. -/
def Obligations.HostQueuesTokensInOrder : Prop :=
  ∀ (s : State) (tok : Token) (ops : List HostOp),
    (s.script = .push tok :: ops → step s = .next { s with script := ops, q := s.q ++ [tok] }) ∧
    (s.script = .discard :: ops → step s = .next { s with script := ops, q := [] }) ∧
    (s.script = .await :: ops → s.phase = .idle ∨ s.phase = .done ∨ s.phase = .fault →
      step s = .next { s with script := ops }) ∧
    (s.script = .await :: ops → s.phase ≠ .idle → s.phase ≠ .done → s.phase ≠ .fault → step s = blockStep s)

/-! ### Faults and reset -/

/-- Fault entry (60_exceptions.md R152): the kind and the state, and no other register. What `PIX` holds after is
unspecified. -/
def Obligations.FaultEntryKeepsTheRegisters : Prop :=
  ∀ (k : FaultKind) (s : State), ∃ t, raise k s = .next t ∧ t.faultKind = k ∧ t.phase = .fault ∧
    { t with faultKind := s.faultKind, phase := s.phase, pix := s.pix } = s

/-- Where the block has no step, the model's step leaves the state as it is: in `FAULT`, `DONE` and `IDLE`
(60_exceptions.md R159, 42_frame_control.md R125, 10_state.md R41), and where a token is due and none is queued
(20_memory.md R50). That the model stutters there is its own choice, log 2. -/
def Obligations.BlockRestsWhereItHasNoStep : Prop :=
  ∀ s : State, s.script = [] →
    (s.phase = .idle ∨ s.phase = .done ∨ s.phase = .fault → step s = .next s) ∧
    (s.q = [] → s.phase = .palload → step s = .next s) ∧
    (s.q = [] → s.phase = .decode → s.consumed < s.len → step s = .next s)

/-- The reset event in any state (70_reset_and_hazards.md R171, R172, 10_state.md R44): every register the spec gives a
value has it, `irq` is off, the queue is not cleared. -/
def Obligations.ResetEventSetsTheRegisters : Prop :=
  ∀ (s : State) (ops : List HostOp), s.script = .reset :: ops →
    ∃ t, step s = .next t ∧ t.phase = .idle ∧ t.faultKind = .none ∧ t.refusal = .none ∧ t.palValid = false ∧
      t.fill = 0x00000000#32 ∧ t.frameIndex = 0#32 ∧ t.desc = State.reset.desc ∧
      (∀ n, 8 ≤ n → n ≤ 15 → regRead t n = 0#32) ∧ t.pos = 0 ∧ t.consumed = 0#32 ∧ t.run = 0#7 ∧ t.pcnt = 0 ∧
      t.irq = false ∧ t.q = s.q ∧ t.params = s.params

/-! ### Whole-machine rules -/

/-- The invariant holds right after reset. -/
def Obligations.ResetSatisfiesTheInvariant : Prop := State.reset.Inv

/-- Every step keeps the invariant: the canonical memory, the fault code, what `START` establishes, the bounds of `POS`
and `CONSUMED`, and exactly the words below `N` written. -/
def Obligations.StepKeepsTheInvariant : Prop :=
  ∀ s t : State, s.Inv → step s = .next t → t.Inv

/-- From every state that meets the invariant the machine steps: no run stops with a fault of the model or a refusal. -/
def Obligations.InvariantStatesAlwaysStep : Prop :=
  ∀ s : State, s.Inv → s.Steps

/-- The phase transitions are exactly those of 10_state.md R41, and the commands are what leaves `IDLE`, `DONE` and
`FAULT`. -/
def Obligations.PhaseTransitionsAreExactly : Prop :=
  ∀ s t : State, step s = .next t → s.script.head? ≠ some .reset → t.phase ≠ s.phase →
    (s.phase = .idle ∧ t.phase = .palload ∧ s.script.head? = some (.regWrite 0 1#32)) ∨
    (s.phase = .idle ∧ t.phase = .fill ∧ s.script.head? = some (.regWrite 0 2#32)) ∨
    (s.phase = .palload ∧ (t.phase = .idle ∨ t.phase = .fault)) ∨
    (s.phase = .fill ∧ t.phase = .decode) ∨
    (s.phase = .decode ∧ (t.phase = .flip ∨ t.phase = .fault)) ∨
    (s.phase = .flip ∧ t.phase = .done) ∨
    ((s.phase = .done ∨ s.phase = .fault) ∧ t.phase = .idle ∧ s.script.head? = some (.regWrite 0 3#32))

/-- From `START` to `ACK` the descriptor, the fill colour and the tag are constant (10_state.md R36, 20_memory.md R60). -/
def Obligations.DescriptorIsFrozenOutsideIdle : Prop :=
  ∀ s t : State, step s = .next t → s.phase ≠ .idle → s.script.head? ≠ some .reset →
    t.desc = s.desc ∧ t.fill = s.fill ∧ t.frameIndex = s.frameIndex

/-- In `DONE` nothing writes the output: until `ACK` or reset the state, every pixel and the registers of the handoff stay
(42_frame_control.md R125, 70_reset_and_hazards.md R181). -/
def Obligations.OutputIsImmutableInDone : Prop :=
  ∀ s t : State, step s = .next t → s.phase = .done → s.script.head? ≠ some .reset →
    s.script.head? ≠ some (.regWrite 0 3#32) →
    t.phase = .done ∧ (∀ i, t.pix.read i = s.pix.read i) ∧ t.handoff = s.handoff ∧
    t.pos = s.pos ∧ t.consumed = s.consumed

/-- What the spec leaves unspecified is never read (10_state.md R39, R40, R43, R44): two states that differ only there
step to states that differ only there, and the host learns the same from both. -/
def Obligations.UnspecifiedContentIsNeverRead : Prop :=
  ∀ s u : State, s.Inv → u.Inv → s.determined = u.determined →
    ∃ s' u', step s = .next s' ∧ step u = .next u' ∧ s'.determined = u'.determined

/-- The block computes the frame function (42_frame_control.md R127 and 40_rle_commands.md R95, which the spec derives
from the step rules): `LEN + 3` steps from an accepted `START`, it is in `DONE` with the function's buffer, cursor and
count, or in `FAULT` with the function's kind, or, where the tokens run out, waiting for one (the stutter is log 2). -/
def Obligations.BlockComputesTheFrameFunction : Prop :=
  ∀ s : State, s.Inv → s.phase = .fill → s.script = [] →
    ∃ t : State, core.run (s.len.toNat + 3) s = .next t ∧
      match decodeFrame s.frame s.q with
      | .ok l => t.phase = .done ∧ t.pix = l.buf ∧ t.pos = l.pos ∧ t.consumed.toNat = l.consumed ∧
          l.consumed = s.len.toNat ∧ t.q = l.rest
      | .fault k l => t.phase = .fault ∧ t.faultKind = k ∧ t.pos = l.pos ∧ t.consumed.toNat = l.consumed ∧
          t.q = l.rest
      | .starved l => t.phase = .decode ∧ t.pix = l.buf ∧ t.pos = l.pos ∧ t.consumed.toNat = l.consumed ∧
          t.q = [] ∧ step t = .next t

/-- From `START` the block reaches `DONE` or `FAULT` within `LEN + 3` steps, unless it waits for a token
(60_exceptions.md R169, which the
spec derives from 40_rle_commands.md R85 to R87; the stutter of a waiting block is log 2). -/
def Obligations.FrameEndsWithinLengthPlusThree : Prop :=
  ∀ s : State, s.Inv → s.phase = .fill → s.script = [] →
    ∃ t : State, core.run (s.len.toNat + 3) s = .next t ∧
      (t.phase = .done ∨ t.phase = .fault ∨ (t.phase = .decode ∧ t.q = [] ∧ step t = .next t))

/-- The encoder of 95_test_vectors.md part 4 round-trips (40_rle_commands.md R88, R89, R91): decoding its stream writes the
palette colour at every indexed entry, leaves the fill colour at every transparent one, never faults, and ends at
`POS = W*H` with every byte taken. -/
def Obligations.EncodedImageDecodesBack : Prop :=
  ∀ (f : Frame) (rows : List Row) (rest : List Token), 1 ≤ f.width.toNat → f.isFlipped ≠ 0#32 →
    rows.length = f.height.toNat → (∀ r ∈ rows, r.length = f.width.toNat) →
    (encodeImage rows).length = f.length.toNat →
    ∃ l, decodeFrame f ((encodeImage rows).map Token.byte ++ rest) = .ok l ∧
      l.pos = f.area ∧ l.consumed = f.length.toNat ∧ l.rest = rest ∧
      ∀ y x r e, rows[y]? = some r → r[x]? = some e →
        l.buf.read (y * f.width.toNat + x) = some (match e with | some i => mapIndex f.pal i | none => f.fill)

/-- Units share nothing: a step of one leaves every other unit as it is (60_exceptions.md R166). For the palette, which R166
allows to be one shared table, this rests on the model's choice of a copy in each unit (logs 14 and 16). -/
def Obligations.UnitsStepIndependently : Prop :=
  ∀ (p p' : Platform) (k : Nat), p.stepUnit k = .next p' →
    p'.units.length = p.units.length ∧ (∀ j, j ≠ k → p'.units[j]? = p.units[j]?) ∧
    (∀ s t, p.units[k]? = some s → step s = .next t → p'.units[k]? = some t)

/-! ### The host's formats -/

/-- A container header is accepted exactly when its first three little-endian words are 6, 1, 0; the fourth is ignored, and
the counts are the fifth and sixth (43_host_formats.md R131, R132, R133). -/
def Obligations.ContainerHeaderIsSixOneZero : Prop :=
  ∀ (src : Source) (w0 w1 w2 w3 w4 w5 : Word), src.words 0 6 = .ok [w0, w1, w2, w3, w4, w5] →
    (w0 = 6#32 → w1 = 1#32 → w2 = 0#32 →
      src.containerHeader = .ok { directions := w4, framesPerDirection := w5 }) ∧
    (w0 ≠ 6#32 ∨ w1 ≠ 1#32 ∨ w2 ≠ 0#32 → src.containerHeader = .error .invalidHeader)

/-- A word is read from four consecutive bytes, least significant first (20_memory.md R54, 43_host_formats.md R131). -/
def Obligations.WordsAreLittleEndian : Prop :=
  ∀ (src : Source) (o : Nat) (b0 b1 b2 b3 : Byte), src.failsFrom = none →
    src.bytes[o]? = some b0 → src.bytes[o + 1]? = some b1 → src.bytes[o + 2]? = some b2 →
    src.bytes[o + 3]? = some b3 →
    ∃ w, src.word o = .ok w ∧
      w.toNat = b0.toNat + 256 * b1.toNat + 65536 * b2.toNat + 16777216 * b3.toNat

/-- The tokens of a frame (43_host_formats.md R140): the `length` bytes after the 32-byte header, or those the source has
and then `End`. -/
def Obligations.FrameTokensEndWithTheSource : Prop :=
  ∀ (src : Source) (o : Nat) (d : Descriptor), src.failsFrom = none →
    src.frameTokens o d =
      if o + 32 + d.length.toNat ≤ src.bytes.length then
        ((src.bytes.drop (o + 32)).take d.length.toNat).map Token.byte
      else if d.length = 0#32 then []
      else (src.bytes.drop (o + 32)).map Token.byte ++ [.eos]

/-- The palette of a run (43_host_formats.md R139, R143, 41_palette_mapper.md R105, R106). A resource that cannot be measured
is `InvalidPaletteSize` and one with a failed read `IoFailure`, without an operation on the block (which is which, the
model deduces, log 18); a resource that is read is loaded into the block. Each failure, and a size other than 768, ends the
run; 768 bytes give the palette, BGR triples as RGB entries, with which every file is processed. -/
def Obligations.PaletteResourceStartsOrEndsTheRun : Prop :=
  ∀ (params : Params) (fill : PixelWord) (maxFrames : Nat) (files : List Source),
    (paletteOperations .unmeasurable = .error .invalidPaletteSize ∧
      decodeBatch params fill maxFrames .unmeasurable files = .error .invalidPaletteSize) ∧
    (∀ (src : Source) (k : Nat), src.failsFrom = some k → k < src.bytes.length →
      paletteOperations (.measured src) = .error .ioFailure ∧
      decodeBatch params fill maxFrames (.measured src) files = .error .ioFailure) ∧
    (∀ src : Source, (∀ k, src.failsFrom = some k → src.bytes.length ≤ k) →
      paletteOperations (.measured src) = .ok (paletteScript src.bytes) ∧
      (src.bytes.length ≠ 768 →
        decodeBatch params fill maxFrames (.measured src) files = .error .invalidPaletteSize) ∧
      (src.bytes.length = 768 → ∃ pal : Palette,
        decodeBatch params fill maxFrames (.measured src) files =
          .ok (files.map (decodeFile { params := params, pal := pal, fill := fill } maxFrames)) ∧
        ∀ i (h : i < 256), src.bytes[3 * i]? = some pal[i].b ∧ src.bytes[3 * i + 1]? = some pal[i].g ∧
          src.bytes[3 * i + 2]? = some pal[i].r))
end

