-- ==== Sys2Proof/Laws/Container.lean ====
section
/-! SUPPORT. What reading a byte source gives: one byte, a range without a failed read, a range with one. -/

namespace Sys2Proof.Machine

/-- No read below an offset fails. -/
def Source.readableTo (src : Source) (e : Nat) : Prop := ∀ k, src.failsFrom = some k → e ≤ k

theorem Source.tokenAt_byte {src : Source} {o : Nat} (hr : src.readableTo (o + 1)) (h : o < src.bytes.length) :
    src.tokenAt o = .byte src.bytes[o] := by
  unfold Source.tokenAt
  cases hf : src.failsFrom with
  | none => simp [h]
  | some k => simp [h, Nat.not_le.2 (hr k hf)]

theorem Source.tokenAt_err {src : Source} {o k : Nat} (hf : src.failsFrom = some k) (h : k ≤ o) :
    src.tokenAt o = .err := by
  simp [Source.tokenAt, hf, h]

/-- A range of bytes that are there and readable is read as it stands. -/
theorem Source.tokens_bytes {src : Source} {n o : Nat} (hr : src.readableTo (o + n))
    (h : o + n ≤ src.bytes.length) : src.tokens o n = ((src.bytes.drop o).take n).map Token.byte := by
  induction n generalizing o with
  | zero => simp [Source.tokens]
  | succ n ih =>
    have hlt : o < src.bytes.length := by omega
    rw [Source.tokens, Source.tokenAt_byte (fun k hk => Nat.le_trans (by omega) (hr k hk)) hlt,
      List.drop_eq_getElem_cons hlt, List.take_succ_cons, List.map_cons]
    exact congrArg _ (ih (fun k hk => Nat.le_trans (by omega) (hr k hk)) (by omega))

@[simp] theorem tokenBytes_map (blob : List Byte) : tokenBytes (blob.map Token.byte) = some blob := by
  induction blob with
  | nil => rfl
  | cons b rest ih => simp [tokenBytes, ih]

/-- A range with a failed read inside gives no bytes. -/
theorem Source.tokenBytes_tokens_err {src : Source} {k n o : Nat} (hf : src.failsFrom = some k) (ho : o ≤ k)
    (hk : k < o + n) (h : k < src.bytes.length) : tokenBytes (src.tokens o n) = none := by
  induction n generalizing o with
  | zero => omega
  | succ n ih =>
    by_cases he : k ≤ o
    · simp [Source.tokens, Source.tokenAt_err hf he, tokenBytes]
    · have hr : src.readableTo (o + 1) := fun j hj => by
        rw [hf] at hj; cases hj; omega
      simp [Source.tokens, Source.tokenAt_byte hr (show o < src.bytes.length by omega), tokenBytes,
        ih (o := o + 1) (by omega) (by omega)]

/-- A resource that can be read gives its bytes. -/
theorem PaletteResource.blob_ok {src : Source} (hr : src.readableTo src.bytes.length) :
    (PaletteResource.measured src).blob = .ok src.bytes := by
  have h : src.tokens 0 src.bytes.length = src.bytes.map Token.byte := by
    rw [Source.tokens_bytes (by simpa using hr) (by simp)]; simp
  simp [PaletteResource.blob, h]

/-- A resource with a failed read gives the host's `IoFailure`. -/
theorem PaletteResource.blob_failed {src : Source} {k : Nat} (hf : src.failsFrom = some k)
    (h : k < src.bytes.length) : (PaletteResource.measured src).blob = .error .ioFailure := by
  have e : tokenBytes (src.tokens 0 src.bytes.length) = none :=
    Source.tokenBytes_tokens_err hf (Nat.zero_le k) (by simpa using h) h
  simp [PaletteResource.blob, e]

end Sys2Proof.Machine
end

