-- ==== Sys2Proof/Laws/Memory.lean ====
section
/-! SUPPORT. The laws of the pixel memory: read after write, the tabulated memory, and that every operation keeps the
canonical form. -/

namespace Sys2Proof.Machine

@[simp] theorem Memory.read_nil (i : Nat) : Memory.read [] i = none := rfl

@[simp] theorem Memory.read_cons (a : Nat) (w : PixelWord) (m : Memory) (i : Nat) :
    Memory.read ((a, w) :: m) i = if a = i then some w else Memory.read m i := rfl

theorem Memory.read_write_same (m : Memory) (i : Nat) (v : PixelWord) : (m.write i v).read i = some v := by
  induction m with
  | nil => simp [Memory.write]
  | cons c m ih =>
    obtain ⟨a, w⟩ := c
    simp only [Memory.write]
    split
    · simp
    · split
      · simp
      · have : a ≠ i := by omega
        simp [this, ih]

theorem Memory.read_write_other (m : Memory) {i j : Nat} (v : PixelWord) (h : i ≠ j) :
    (m.write i v).read j = m.read j := by
  induction m with
  | nil => simp [Memory.write, h]
  | cons c m ih =>
    obtain ⟨a, w⟩ := c
    simp only [Memory.write]
    split
    · simp [h]
    · split
      · next e => subst e; simp [h]
      · simp [ih]

/-- A write reads as the written word at its index and as before elsewhere. -/
theorem Memory.read_write (m : Memory) (i j : Nat) (v : PixelWord) :
    (m.write i v).read j = if i = j then some v else m.read j := by
  split
  · next h => subst h; exact m.read_write_same i v
  · next h => exact m.read_write_other v h

/-- An index of the memory after a write is the written one or one from before. -/
theorem Memory.mem_write {m : Memory} {i : Nat} {v : PixelWord} {c : Nat × PixelWord} (h : c ∈ m.write i v) :
    c.1 = i ∨ c ∈ m := by
  induction m with
  | nil => simp [Memory.write] at h; simp [h]
  | cons d m ih =>
    obtain ⟨a, w⟩ := d
    simp only [Memory.write] at h
    split at h
    · rcases List.mem_cons.1 h with h | h
      · exact .inl (by simp [h])
      · exact .inr h
    · split at h
      · rcases List.mem_cons.1 h with h | h
        · exact .inl (by simp [h])
        · exact .inr (List.mem_cons_of_mem _ h)
      · rcases List.mem_cons.1 h with h | h
        · exact .inr (by simp [h])
        · exact (ih h).imp_right (List.mem_cons_of_mem _)

/-- A write keeps the canonical form. -/
theorem Memory.wf_write {m : Memory} (h : m.wf) (i : Nat) (v : PixelWord) : (m.write i v).wf := by
  induction m with
  | nil => simp [Memory.write, Memory.wf]
  | cons c m ih =>
    obtain ⟨a, w⟩ := c
    obtain ⟨hhead, htail⟩ := List.pairwise_cons.1 h
    simp only [Memory.write]
    split
    · next hlt =>
      refine List.pairwise_cons.2 ⟨fun d hd => ?_, h⟩
      rcases List.mem_cons.1 hd with rfl | hd
      · exact hlt
      · exact Nat.lt_trans hlt (hhead d hd)
    · split
      · next e => subst e; exact List.pairwise_cons.2 ⟨fun d hd => hhead d hd, htail⟩
      · next hge hne =>
        refine List.pairwise_cons.2 ⟨fun d hd => ?_, ih htail⟩
        rcases Memory.mem_write hd with hd | hd
        · simp only [hd]; omega
        · exact hhead d hd

/-- A read that gives a word finds an entry. -/
theorem Memory.mem_of_read {m : Memory} {i : Nat} {w : PixelWord} (h : m.read i = some w) : (i, w) ∈ m := by
  induction m with
  | nil => simp at h
  | cons c m ih =>
    obtain ⟨a, x⟩ := c
    simp only [Memory.read_cons] at h
    split at h
    · next e => subst e; simp_all
    · exact List.mem_cons_of_mem _ (ih h)

/-- An entry of a canonical memory is what its index reads as. -/
theorem Memory.read_of_mem {m : Memory} (hm : m.wf) {i : Nat} {w : PixelWord} (h : (i, w) ∈ m) :
    m.read i = some w := by
  induction m with
  | nil => simp at h
  | cons c m ih =>
    obtain ⟨a, x⟩ := c
    obtain ⟨hhead, htail⟩ := List.pairwise_cons.1 hm
    rcases List.mem_cons.1 h with h | h
    · obtain ⟨rfl, rfl⟩ := Prod.mk.inj h; simp
    · have hne : a ≠ i := Nat.ne_of_lt (hhead _ h)
      simp [hne, ih htail h]

/-- Equal readings of canonical memories are equal data. -/
theorem Memory.ext {m m' : Memory} (hm : m.wf) (hm' : m'.wf) (h : ∀ i, m.read i = m'.read i) : m = m' := by
  have nd : ∀ {l : Memory}, l.wf → l.Nodup := fun hl => List.Pairwise.imp (fun {c d} hcd e => by
    subst e; exact Nat.lt_irrefl _ hcd) hl
  refine List.Perm.eq_of_pairwise (le := fun c d : Nat × PixelWord => c.1 < d.1) ?_ hm hm'
    ((List.perm_ext_iff_of_nodup (nd hm) (nd hm')).2 fun c => ?_)
  · intro a b _ _ hab hba
    exact absurd (Nat.lt_trans hab hba) (Nat.lt_irrefl _)
  · obtain ⟨i, w⟩ := c
    exact ⟨fun hc => Memory.mem_of_read ((h i).symm.trans (Memory.read_of_mem hm hc)),
      fun hc => Memory.mem_of_read ((h i).trans (Memory.read_of_mem hm' hc))⟩

/-- A tabulated memory is canonical. -/
theorem Memory.wf_tabulate (n : Nat) (f : Nat → Option PixelWord) : (Memory.tabulate n f).wf := by
  refine List.Pairwise.filterMap _ ?_ (List.pairwise_lt_range (n := n))
  intro i j hij c hc d hd
  obtain ⟨w, -, rfl⟩ := Option.map_eq_some_iff.1 hc
  obtain ⟨x, -, rfl⟩ := Option.map_eq_some_iff.1 hd
  exact hij

/-- A tabulated memory reads as its function below its size, and has no word beyond. -/
theorem Memory.read_tabulate (n : Nat) (f : Nat → Option PixelWord) (i : Nat) :
    (Memory.tabulate n f).read i = if i < n then f i else none := by
  have key : ∀ w, (Memory.tabulate n f).read i = some w ↔ i < n ∧ f i = some w := by
    intro w
    have hmem : (i, w) ∈ Memory.tabulate n f ↔ i < n ∧ f i = some w := by
      simp only [Memory.tabulate, List.mem_filterMap, List.mem_range, Option.map_eq_some_iff, Prod.mk.injEq]
      constructor
      · rintro ⟨j, hj, x, hx, rfl, rfl⟩; exact ⟨hj, hx⟩
      · rintro ⟨hi, hw⟩; exact ⟨i, hi, w, hw, rfl, rfl⟩
    exact ⟨fun h => hmem.1 (Memory.mem_of_read h), fun h => Memory.read_of_mem (Memory.wf_tabulate n f) (hmem.2 h)⟩
  split
  · next h =>
    refine Option.ext fun w => ?_
    simp [key, h]
  · next h =>
    refine Option.ext fun w => ?_
    simp [key, h]

end Sys2Proof.Machine
end

