-- ==== Sys2Proof/Laws/State.lean ====
section
/-! SUPPORT. One lemma per field per named update of the state, so that no later proof unfolds a record update. -/

namespace Sys2Proof.Machine

/-! ### Fault entry (60_exceptions.md R152) -/

@[simp] theorem State.faulted_params (s : State) (k : FaultKind) : (s.faulted k).params = s.params := rfl
@[simp] theorem State.faulted_phase (s : State) (k : FaultKind) : (s.faulted k).phase = .fault := rfl
@[simp] theorem State.faulted_faultKind (s : State) (k : FaultKind) : (s.faulted k).faultKind = k := rfl
@[simp] theorem State.faulted_refusal (s : State) (k : FaultKind) : (s.faulted k).refusal = s.refusal := rfl
@[simp] theorem State.faulted_palValid (s : State) (k : FaultKind) : (s.faulted k).palValid = s.palValid := rfl
@[simp] theorem State.faulted_pal (s : State) (k : FaultKind) : (s.faulted k).pal = s.pal := rfl
@[simp] theorem State.faulted_fill (s : State) (k : FaultKind) : (s.faulted k).fill = s.fill := rfl
@[simp] theorem State.faulted_frameIndex (s : State) (k : FaultKind) : (s.faulted k).frameIndex = s.frameIndex := rfl
@[simp] theorem State.faulted_desc (s : State) (k : FaultKind) : (s.faulted k).desc = s.desc := rfl
@[simp] theorem State.faulted_pos (s : State) (k : FaultKind) : (s.faulted k).pos = s.pos := rfl
@[simp] theorem State.faulted_consumed (s : State) (k : FaultKind) : (s.faulted k).consumed = s.consumed := rfl
@[simp] theorem State.faulted_run (s : State) (k : FaultKind) : (s.faulted k).run = s.run := rfl
@[simp] theorem State.faulted_pix (s : State) (k : FaultKind) : (s.faulted k).pix = [] := rfl
@[simp] theorem State.faulted_pcnt (s : State) (k : FaultKind) : (s.faulted k).pcnt = s.pcnt := rfl
@[simp] theorem State.faulted_pstage (s : State) (k : FaultKind) : (s.faulted k).pstage = s.pstage := rfl
@[simp] theorem State.faulted_q (s : State) (k : FaultKind) : (s.faulted k).q = s.q := rfl
@[simp] theorem State.faulted_script (s : State) (k : FaultKind) : (s.faulted k).script = s.script := rfl
@[simp] theorem State.faulted_replies (s : State) (k : FaultKind) : (s.faulted k).replies = s.replies := rfl
@[simp] theorem State.faulted_freeCount (s : State) (k : FaultKind) : (s.faulted k).freeCount = s.freeCount := rfl

/-! ### Return from a fault or a result (42_frame_control.md R126) -/

@[simp] theorem State.released_params (s : State) : s.released.params = s.params := rfl
@[simp] theorem State.released_phase (s : State) : s.released.phase = .idle := rfl
@[simp] theorem State.released_faultKind (s : State) : s.released.faultKind = .none := rfl
@[simp] theorem State.released_refusal (s : State) : s.released.refusal = .none := rfl
@[simp] theorem State.released_palValid (s : State) : s.released.palValid = s.palValid := rfl
@[simp] theorem State.released_pal (s : State) : s.released.pal = s.pal := rfl
@[simp] theorem State.released_fill (s : State) : s.released.fill = s.fill := rfl
@[simp] theorem State.released_frameIndex (s : State) : s.released.frameIndex = s.frameIndex := rfl
@[simp] theorem State.released_desc (s : State) : s.released.desc = s.desc := rfl
@[simp] theorem State.released_pos (s : State) : s.released.pos = s.pos := rfl
@[simp] theorem State.released_consumed (s : State) : s.released.consumed = s.consumed := rfl
@[simp] theorem State.released_run (s : State) : s.released.run = s.run := rfl
@[simp] theorem State.released_pix (s : State) : s.released.pix = [] := rfl
@[simp] theorem State.released_pcnt (s : State) : s.released.pcnt = s.pcnt := rfl
@[simp] theorem State.released_pstage (s : State) : s.released.pstage = s.pstage := rfl
@[simp] theorem State.released_q (s : State) : s.released.q = s.q := rfl
@[simp] theorem State.released_script (s : State) : s.released.script = s.script := rfl
@[simp] theorem State.released_replies (s : State) : s.released.replies = s.replies := rfl
@[simp] theorem State.released_freeCount (s : State) : s.released.freeCount = s.freeCount := rfl

/-! ### Refusal (60_exceptions.md R157) -/

@[simp] theorem State.refusedWith_params (s : State) (r : RefusalReason) : (s.refusedWith r).params = s.params := rfl
@[simp] theorem State.refusedWith_phase (s : State) (r : RefusalReason) : (s.refusedWith r).phase = s.phase := rfl
@[simp] theorem State.refusedWith_faultKind (s : State) (r : RefusalReason) : (s.refusedWith r).faultKind = s.faultKind := rfl
@[simp] theorem State.refusedWith_refusal (s : State) (r : RefusalReason) : (s.refusedWith r).refusal = r := rfl
@[simp] theorem State.refusedWith_palValid (s : State) (r : RefusalReason) : (s.refusedWith r).palValid = s.palValid := rfl
@[simp] theorem State.refusedWith_pal (s : State) (r : RefusalReason) : (s.refusedWith r).pal = s.pal := rfl
@[simp] theorem State.refusedWith_fill (s : State) (r : RefusalReason) : (s.refusedWith r).fill = s.fill := rfl
@[simp] theorem State.refusedWith_frameIndex (s : State) (r : RefusalReason) : (s.refusedWith r).frameIndex = s.frameIndex := rfl
@[simp] theorem State.refusedWith_desc (s : State) (r : RefusalReason) : (s.refusedWith r).desc = s.desc := rfl
@[simp] theorem State.refusedWith_pos (s : State) (r : RefusalReason) : (s.refusedWith r).pos = s.pos := rfl
@[simp] theorem State.refusedWith_consumed (s : State) (r : RefusalReason) : (s.refusedWith r).consumed = s.consumed := rfl
@[simp] theorem State.refusedWith_run (s : State) (r : RefusalReason) : (s.refusedWith r).run = s.run := rfl
@[simp] theorem State.refusedWith_pix (s : State) (r : RefusalReason) : (s.refusedWith r).pix = s.pix := rfl
@[simp] theorem State.refusedWith_pcnt (s : State) (r : RefusalReason) : (s.refusedWith r).pcnt = s.pcnt := rfl
@[simp] theorem State.refusedWith_pstage (s : State) (r : RefusalReason) : (s.refusedWith r).pstage = s.pstage := rfl
@[simp] theorem State.refusedWith_q (s : State) (r : RefusalReason) : (s.refusedWith r).q = s.q := rfl
@[simp] theorem State.refusedWith_script (s : State) (r : RefusalReason) : (s.refusedWith r).script = s.script := rfl
@[simp] theorem State.refusedWith_replies (s : State) (r : RefusalReason) : (s.refusedWith r).replies = s.replies := rfl
@[simp] theorem State.refusedWith_freeCount (s : State) (r : RefusalReason) : (s.refusedWith r).freeCount = s.freeCount := rfl

/-! ### Acceptance (10_state.md R26) -/

@[simp] theorem State.accepted_params (s : State) : s.accepted.params = s.params := rfl
@[simp] theorem State.accepted_phase (s : State) : s.accepted.phase = s.phase := rfl
@[simp] theorem State.accepted_faultKind (s : State) : s.accepted.faultKind = s.faultKind := rfl
@[simp] theorem State.accepted_refusal (s : State) : s.accepted.refusal = .none := rfl
@[simp] theorem State.accepted_palValid (s : State) : s.accepted.palValid = s.palValid := rfl
@[simp] theorem State.accepted_pal (s : State) : s.accepted.pal = s.pal := rfl
@[simp] theorem State.accepted_fill (s : State) : s.accepted.fill = s.fill := rfl
@[simp] theorem State.accepted_frameIndex (s : State) : s.accepted.frameIndex = s.frameIndex := rfl
@[simp] theorem State.accepted_desc (s : State) : s.accepted.desc = s.desc := rfl
@[simp] theorem State.accepted_pos (s : State) : s.accepted.pos = s.pos := rfl
@[simp] theorem State.accepted_consumed (s : State) : s.accepted.consumed = s.consumed := rfl
@[simp] theorem State.accepted_run (s : State) : s.accepted.run = s.run := rfl
@[simp] theorem State.accepted_pix (s : State) : s.accepted.pix = s.pix := rfl
@[simp] theorem State.accepted_pcnt (s : State) : s.accepted.pcnt = s.pcnt := rfl
@[simp] theorem State.accepted_pstage (s : State) : s.accepted.pstage = s.pstage := rfl
@[simp] theorem State.accepted_q (s : State) : s.accepted.q = s.q := rfl
@[simp] theorem State.accepted_script (s : State) : s.accepted.script = s.script := rfl
@[simp] theorem State.accepted_replies (s : State) : s.accepted.replies = s.replies := rfl
@[simp] theorem State.accepted_freeCount (s : State) : s.accepted.freeCount = s.freeCount := rfl

/-! ### The host's notebook (20_memory.md R51, R52) -/

@[simp] theorem State.answered_params (s : State) (r : Reply) : (s.answered r).params = s.params := rfl
@[simp] theorem State.answered_phase (s : State) (r : Reply) : (s.answered r).phase = s.phase := rfl
@[simp] theorem State.answered_faultKind (s : State) (r : Reply) : (s.answered r).faultKind = s.faultKind := rfl
@[simp] theorem State.answered_refusal (s : State) (r : Reply) : (s.answered r).refusal = s.refusal := rfl
@[simp] theorem State.answered_palValid (s : State) (r : Reply) : (s.answered r).palValid = s.palValid := rfl
@[simp] theorem State.answered_pal (s : State) (r : Reply) : (s.answered r).pal = s.pal := rfl
@[simp] theorem State.answered_fill (s : State) (r : Reply) : (s.answered r).fill = s.fill := rfl
@[simp] theorem State.answered_frameIndex (s : State) (r : Reply) : (s.answered r).frameIndex = s.frameIndex := rfl
@[simp] theorem State.answered_desc (s : State) (r : Reply) : (s.answered r).desc = s.desc := rfl
@[simp] theorem State.answered_pos (s : State) (r : Reply) : (s.answered r).pos = s.pos := rfl
@[simp] theorem State.answered_consumed (s : State) (r : Reply) : (s.answered r).consumed = s.consumed := rfl
@[simp] theorem State.answered_run (s : State) (r : Reply) : (s.answered r).run = s.run := rfl
@[simp] theorem State.answered_pix (s : State) (r : Reply) : (s.answered r).pix = s.pix := rfl
@[simp] theorem State.answered_pcnt (s : State) (r : Reply) : (s.answered r).pcnt = s.pcnt := rfl
@[simp] theorem State.answered_pstage (s : State) (r : Reply) : (s.answered r).pstage = s.pstage := rfl
@[simp] theorem State.answered_q (s : State) (r : Reply) : (s.answered r).q = s.q := rfl
@[simp] theorem State.answered_script (s : State) (r : Reply) : (s.answered r).script = s.script := rfl
@[simp] theorem State.answered_replies (s : State) (r : Reply) : (s.answered r).replies = r :: s.replies := rfl
@[simp] theorem State.answered_freeCount (s : State) (r : Reply) : (s.answered r).freeCount = s.freeCount := rfl

/-! ### The reset event (70_reset_and_hazards.md R171) -/

@[simp] theorem State.afterReset_params (s : State) : s.afterReset.params = s.params := rfl
@[simp] theorem State.afterReset_phase (s : State) : s.afterReset.phase = State.reset.phase := rfl
@[simp] theorem State.afterReset_faultKind (s : State) : s.afterReset.faultKind = State.reset.faultKind := rfl
@[simp] theorem State.afterReset_refusal (s : State) : s.afterReset.refusal = State.reset.refusal := rfl
@[simp] theorem State.afterReset_palValid (s : State) : s.afterReset.palValid = State.reset.palValid := rfl
@[simp] theorem State.afterReset_pal (s : State) : s.afterReset.pal = State.reset.pal := rfl
@[simp] theorem State.afterReset_fill (s : State) : s.afterReset.fill = State.reset.fill := rfl
@[simp] theorem State.afterReset_frameIndex (s : State) : s.afterReset.frameIndex = State.reset.frameIndex := rfl
@[simp] theorem State.afterReset_desc (s : State) : s.afterReset.desc = State.reset.desc := rfl
@[simp] theorem State.afterReset_pos (s : State) : s.afterReset.pos = State.reset.pos := rfl
@[simp] theorem State.afterReset_consumed (s : State) : s.afterReset.consumed = State.reset.consumed := rfl
@[simp] theorem State.afterReset_run (s : State) : s.afterReset.run = State.reset.run := rfl
@[simp] theorem State.afterReset_pix (s : State) : s.afterReset.pix = State.reset.pix := rfl
@[simp] theorem State.afterReset_pcnt (s : State) : s.afterReset.pcnt = State.reset.pcnt := rfl
@[simp] theorem State.afterReset_pstage (s : State) : s.afterReset.pstage = State.reset.pstage := rfl
@[simp] theorem State.afterReset_q (s : State) : s.afterReset.q = s.q := rfl
@[simp] theorem State.afterReset_script (s : State) : s.afterReset.script = s.script := rfl
@[simp] theorem State.afterReset_replies (s : State) : s.afterReset.replies = s.replies := rfl
@[simp] theorem State.afterReset_freeCount (s : State) : s.afterReset.freeCount = s.freeCount := rfl

/-! ### A blob byte (41_palette_mapper.md R104) -/

@[simp] theorem stageByte_params (b : Byte) (s : State) : (stageByte b s).params = s.params := rfl
@[simp] theorem stageByte_phase (b : Byte) (s : State) : (stageByte b s).phase = s.phase := rfl
@[simp] theorem stageByte_faultKind (b : Byte) (s : State) : (stageByte b s).faultKind = s.faultKind := rfl
@[simp] theorem stageByte_refusal (b : Byte) (s : State) : (stageByte b s).refusal = s.refusal := rfl
@[simp] theorem stageByte_palValid (b : Byte) (s : State) : (stageByte b s).palValid = s.palValid := rfl
@[simp] theorem stageByte_pal (b : Byte) (s : State) : (stageByte b s).pal = s.pal := rfl
@[simp] theorem stageByte_fill (b : Byte) (s : State) : (stageByte b s).fill = s.fill := rfl
@[simp] theorem stageByte_frameIndex (b : Byte) (s : State) : (stageByte b s).frameIndex = s.frameIndex := rfl
@[simp] theorem stageByte_desc (b : Byte) (s : State) : (stageByte b s).desc = s.desc := rfl
@[simp] theorem stageByte_pos (b : Byte) (s : State) : (stageByte b s).pos = s.pos := rfl
@[simp] theorem stageByte_consumed (b : Byte) (s : State) : (stageByte b s).consumed = s.consumed := rfl
@[simp] theorem stageByte_run (b : Byte) (s : State) : (stageByte b s).run = s.run := rfl
@[simp] theorem stageByte_pix (b : Byte) (s : State) : (stageByte b s).pix = s.pix := rfl
@[simp] theorem stageByte_q (b : Byte) (s : State) : (stageByte b s).q = s.q := rfl
@[simp] theorem stageByte_script (b : Byte) (s : State) : (stageByte b s).script = s.script := rfl
@[simp] theorem stageByte_replies (b : Byte) (s : State) : (stageByte b s).replies = s.replies := rfl
@[simp] theorem stageByte_freeCount (b : Byte) (s : State) : (stageByte b s).freeCount = s.freeCount := rfl

/-! ### A register write (10_state.md R36): only `FILL`, `FRAME_INDEX` and the descriptor can change -/

@[simp] theorem State.setReg_params (s : State) (n : Nat) (v : Word) : (s.setReg n v).params = s.params := by
  unfold State.setReg; split <;> rfl
@[simp] theorem State.setReg_phase (s : State) (n : Nat) (v : Word) : (s.setReg n v).phase = s.phase := by
  unfold State.setReg; split <;> rfl
@[simp] theorem State.setReg_faultKind (s : State) (n : Nat) (v : Word) : (s.setReg n v).faultKind = s.faultKind := by
  unfold State.setReg; split <;> rfl
@[simp] theorem State.setReg_refusal (s : State) (n : Nat) (v : Word) : (s.setReg n v).refusal = s.refusal := by
  unfold State.setReg; split <;> rfl
@[simp] theorem State.setReg_palValid (s : State) (n : Nat) (v : Word) : (s.setReg n v).palValid = s.palValid := by
  unfold State.setReg; split <;> rfl
@[simp] theorem State.setReg_pal (s : State) (n : Nat) (v : Word) : (s.setReg n v).pal = s.pal := by
  unfold State.setReg; split <;> rfl
@[simp] theorem State.setReg_pos (s : State) (n : Nat) (v : Word) : (s.setReg n v).pos = s.pos := by
  unfold State.setReg; split <;> rfl
@[simp] theorem State.setReg_consumed (s : State) (n : Nat) (v : Word) : (s.setReg n v).consumed = s.consumed := by
  unfold State.setReg; split <;> rfl
@[simp] theorem State.setReg_run (s : State) (n : Nat) (v : Word) : (s.setReg n v).run = s.run := by
  unfold State.setReg; split <;> rfl
@[simp] theorem State.setReg_pix (s : State) (n : Nat) (v : Word) : (s.setReg n v).pix = s.pix := by
  unfold State.setReg; split <;> rfl
@[simp] theorem State.setReg_pcnt (s : State) (n : Nat) (v : Word) : (s.setReg n v).pcnt = s.pcnt := by
  unfold State.setReg; split <;> rfl
@[simp] theorem State.setReg_pstage (s : State) (n : Nat) (v : Word) : (s.setReg n v).pstage = s.pstage := by
  unfold State.setReg; split <;> rfl
@[simp] theorem State.setReg_q (s : State) (n : Nat) (v : Word) : (s.setReg n v).q = s.q := by
  unfold State.setReg; split <;> rfl
@[simp] theorem State.setReg_script (s : State) (n : Nat) (v : Word) : (s.setReg n v).script = s.script := by
  unfold State.setReg; split <;> rfl
@[simp] theorem State.setReg_replies (s : State) (n : Nat) (v : Word) : (s.setReg n v).replies = s.replies := by
  unfold State.setReg; split <;> rfl
@[simp] theorem State.setReg_freeCount (s : State) (n : Nat) (v : Word) : (s.setReg n v).freeCount = s.freeCount := by
  unfold State.setReg; split <;> rfl

/-! ### The reset state (10_state.md R44) -/

@[simp] theorem State.reset_params : State.reset.params = Config.resetParams := rfl
@[simp] theorem State.reset_phase : State.reset.phase = .idle := rfl
@[simp] theorem State.reset_faultKind : State.reset.faultKind = .none := rfl
@[simp] theorem State.reset_refusal : State.reset.refusal = .none := rfl
@[simp] theorem State.reset_palValid : State.reset.palValid = false := rfl
@[simp] theorem State.reset_fill : State.reset.fill = 0#32 := rfl
@[simp] theorem State.reset_frameIndex : State.reset.frameIndex = 0#32 := rfl
@[simp] theorem State.reset_pos : State.reset.pos = 0 := rfl
@[simp] theorem State.reset_consumed : State.reset.consumed = 0#32 := rfl
@[simp] theorem State.reset_run : State.reset.run = 0#7 := rfl
@[simp] theorem State.reset_pix : State.reset.pix = [] := rfl
@[simp] theorem State.reset_pcnt : State.reset.pcnt = 0 := rfl
@[simp] theorem State.reset_q : State.reset.q = [] := rfl
@[simp] theorem State.reset_script : State.reset.script = [] := rfl
@[simp] theorem State.reset_replies : State.reset.replies = [] := rfl
@[simp] theorem State.reset_freeCount : State.reset.freeCount = 0 := rfl

/-! ### The shorthands `W`, `H`, `N`, `LEN` depend on the descriptor alone -/

@[simp] theorem State.faulted_W (s : State) (k : FaultKind) : (s.faulted k).W = s.W := rfl
@[simp] theorem State.faulted_H (s : State) (k : FaultKind) : (s.faulted k).H = s.H := rfl
@[simp] theorem State.faulted_N (s : State) (k : FaultKind) : (s.faulted k).N = s.N := rfl
@[simp] theorem State.faulted_len (s : State) (k : FaultKind) : (s.faulted k).len = s.len := rfl
@[simp] theorem State.released_W (s : State) : s.released.W = s.W := rfl
@[simp] theorem State.released_H (s : State) : s.released.H = s.H := rfl
@[simp] theorem State.released_N (s : State) : s.released.N = s.N := rfl
@[simp] theorem State.released_len (s : State) : s.released.len = s.len := rfl
@[simp] theorem State.refusedWith_W (s : State) (r : RefusalReason) : (s.refusedWith r).W = s.W := rfl
@[simp] theorem State.refusedWith_H (s : State) (r : RefusalReason) : (s.refusedWith r).H = s.H := rfl
@[simp] theorem State.refusedWith_N (s : State) (r : RefusalReason) : (s.refusedWith r).N = s.N := rfl
@[simp] theorem State.refusedWith_len (s : State) (r : RefusalReason) : (s.refusedWith r).len = s.len := rfl
@[simp] theorem State.accepted_W (s : State) : s.accepted.W = s.W := rfl
@[simp] theorem State.accepted_H (s : State) : s.accepted.H = s.H := rfl
@[simp] theorem State.accepted_N (s : State) : s.accepted.N = s.N := rfl
@[simp] theorem State.accepted_len (s : State) : s.accepted.len = s.len := rfl
@[simp] theorem State.answered_W (s : State) (r : Reply) : (s.answered r).W = s.W := rfl
@[simp] theorem State.answered_H (s : State) (r : Reply) : (s.answered r).H = s.H := rfl
@[simp] theorem State.answered_N (s : State) (r : Reply) : (s.answered r).N = s.N := rfl
@[simp] theorem State.answered_len (s : State) (r : Reply) : (s.answered r).len = s.len := rfl

end Sys2Proof.Machine
end

