-- ==== Sys2Proof/Laws/Ops.lean ====
section
/-! SUPPORT. One lemma per shared operation that says what it can do: fault entry, refusal, the token fetch, and each
meaning when it answers a next state. -/

namespace Sys2Proof.Machine

/-! ### Fault entry, return, refusal -/

@[simp] theorem raise_eq (k : FaultKind) (s : State) : raise k s = .next (s.faulted k) := rfl
@[simp] theorem returnToIdle_eq (s : State) : returnToIdle s = .next s.released := rfl
@[simp] theorem refuse_eq (r : RefusalReason) (s : State) : refuse r s = .next (s.refusedWith r) := rfl

/-! ### The dispatcher -/

@[simp] theorem exec_eol (s : State) : exec .eol s = execEol s := rfl
@[simp] theorem exec_skip (n : BitVec 7) (s : State) : exec (.skip n) s = execSkip n s := rfl
@[simp] theorem exec_lit0 (s : State) : exec .lit0 s = execLit0 s := rfl
@[simp] theorem exec_lit (n : BitVec 7) (s : State) : exec (.lit n) s = execLit n s := rfl
@[simp] theorem exec_palLoad (s : State) : exec .palLoad s = execPalLoad s := rfl
@[simp] theorem exec_start (s : State) : exec .start s = execStart s := rfl
@[simp] theorem exec_ack (s : State) : exec .ack s = execAck s := rfl

/-! ### The token fetch -/

theorem takeToken_nil {s : State} {k : Token → State → Result} (h : s.q = []) : takeToken s k = .next s := by
  simp [takeToken, h]

theorem takeToken_cons {s : State} {k : Token → State → Result} {t : Token} {rest : List Token}
    (h : s.q = t :: rest) : takeToken s k = k t { s with q := rest } := by
  simp [takeToken, h]

theorem fetchStreamByte_nil {s : State} {k : Byte → State → Result} (h : s.q = []) :
    fetchStreamByte s k = .next s := takeToken_nil h

theorem fetchStreamByte_err {s : State} {k : Byte → State → Result} {rest : List Token} (h : s.q = .err :: rest) :
    fetchStreamByte s k = .next (State.faulted { s with q := rest } .ioFailure) := by
  rw [fetchStreamByte, takeToken_cons h]; rfl

theorem fetchStreamByte_eos {s : State} {k : Byte → State → Result} {rest : List Token} (h : s.q = .eos :: rest) :
    fetchStreamByte s k = .next (State.faulted { s with q := rest } .truncatedRun) := by
  rw [fetchStreamByte, takeToken_cons h]; rfl

theorem fetchStreamByte_byte {s : State} {k : Byte → State → Result} {b : Byte} {rest : List Token}
    (h : s.q = .byte b :: rest) :
    fetchStreamByte s k = k b { s with q := rest, consumed := s.consumed + 1#32 } := by
  rw [fetchStreamByte, takeToken_cons h]

/-- Everything the token fetch can do when it answers a next state. -/
theorem takeToken_cases {s t : State} {k : Token → State → Result} (h : takeToken s k = .next t) :
    (s.q = [] ∧ t = s) ∨ ∃ tok rest, s.q = tok :: rest ∧ k tok { s with q := rest } = .next t := by
  cases hq : s.q with
  | nil => rw [takeToken_nil hq] at h; cases h; exact .inl ⟨rfl, rfl⟩
  | cons tok rest => rw [takeToken_cons hq] at h; exact .inr ⟨tok, rest, rfl, h⟩

/-- Everything the fetch of a stream byte can do when it answers a next state. -/
theorem fetchStreamByte_cases {s t : State} {k : Byte → State → Result} (h : fetchStreamByte s k = .next t) :
    (s.q = [] ∧ t = s) ∨
    (∃ rest, s.q = .err :: rest ∧ t = State.faulted { s with q := rest } .ioFailure) ∨
    (∃ rest, s.q = .eos :: rest ∧ t = State.faulted { s with q := rest } .truncatedRun) ∨
    (∃ b rest, s.q = .byte b :: rest ∧ k b { s with q := rest, consumed := s.consumed + 1#32 } = .next t) := by
  rcases takeToken_cases h with ⟨hq, rfl⟩ | ⟨tok, rest, hq, h⟩
  · exact .inl ⟨hq, rfl⟩
  · cases tok with
    | byte b => exact .inr (.inr (.inr ⟨b, rest, hq, h⟩))
    | eos => simp at h; exact .inr (.inr (.inl ⟨rest, hq, h.symm⟩))
    | err => simp at h; exact .inr (.inl ⟨rest, hq, h.symm⟩)

/-! ### The meanings -/

theorem execEol_cases {s t : State} (h : execEol s = .next t) : s.W ≠ 0 ∧ t = { s with pos := nextRow s.W s.pos } := by
  unfold execEol at h
  split at h
  · cases h
  · next hw => cases h; exact ⟨hw, rfl⟩

theorem execSkip_cases {n : BitVec 7} {s t : State} (h : execSkip n s = .next t) :
    t = { s with pos := s.pos + n.toNat } := by
  cases h; rfl

theorem execLit_cases {n : BitVec 7} {s t : State} (h : execLit n s = .next t) : t = { s with run := n } := by
  cases h; rfl

theorem execLit0_cases {s t : State} (h : execLit0 s = .next t) :
    t = s.faulted .reservedCommand ∨ t = s ∨
    (s.params.emptyLit = .decrement ∧ s.W ≠ 0 ∧ s.pos % s.W = 0 ∧ s.pos ≠ 0 ∧ t = { s with pos := s.pos - 1 }) := by
  unfold execLit0 at h
  split at h
  · cases h; exact .inl rfl
  · cases h; exact .inr (.inl rfl)
  · next he =>
    split at h
    · cases h
    · next hw =>
      split at h
      · next hm =>
        split at h
        · cases h; exact .inl rfl
        · next hp => cases h; exact .inr (.inr ⟨he, hw, hm, hp, rfl⟩)
      · cases h; exact .inr (.inl rfl)

theorem execPalLoad_cases {s t : State} (h : execPalLoad s = .next t) :
    (∃ r, r ≠ .none ∧ t = s.refusedWith r) ∨
    (s.phase = .idle ∧ s.palValid = false ∧ t = { s.accepted with pcnt := 0, phase := .palload }) := by
  unfold execPalLoad at h
  split at h
  · cases h; exact .inl ⟨.wrongState, by decide, rfl⟩
  · next hp =>
    split at h
    · cases h; exact .inl ⟨.paletteLocked, by decide, rfl⟩
    · next hv => cases h; exact .inr ⟨by simpa using hp, by simpa using hv, rfl⟩

theorem execStart_cases {s t : State} (h : execStart s = .next t) :
    (∃ r, r ≠ .none ∧ t = s.refusedWith r) ∨
    (s.phase = .idle ∧ s.palValid = true ∧ s.W ≠ 0 ∧ s.H ≠ 0 ∧ s.N ≤ s.params.maxPixels.toNat ∧
      t = { s.accepted with pos := 0, consumed := 0#32, run := 0#7, phase := .fill }) := by
  unfold execStart at h
  split at h
  · cases h; exact .inl ⟨.wrongState, by decide, rfl⟩
  · next hp =>
    split at h
    · cases h; exact .inl ⟨.noPalette, by decide, rfl⟩
    · next hv =>
      split at h
      · cases h; exact .inl ⟨.zeroArea, by decide, rfl⟩
      · next ha =>
        split at h
        · cases h; exact .inl ⟨.frameTooLarge, by decide, rfl⟩
        · next hm =>
          cases h
          exact .inr ⟨by simpa using hp, by simpa using hv, fun e => ha (.inl e), fun e => ha (.inr e),
            Nat.le_of_not_lt hm, rfl⟩

theorem execAck_cases {s t : State} (h : execAck s = .next t) :
    (t = s.refusedWith .wrongState ∧ s.phase ≠ .done ∧ s.phase ≠ .fault) ∨
    ((s.phase = .done ∨ s.phase = .fault) ∧ t = s.released) := by
  unfold execAck at h
  split at h
  · next hp => cases h; exact .inr ⟨hp, rfl⟩
  · next hp => cases h; exact .inl ⟨rfl, fun e => hp (.inl e), fun e => hp (.inr e)⟩

/-- Everything the write of a literal pixel can do. -/
theorem writeLiteral_cases {idx : Byte} {s t : State} (h : writeLiteral idx s = .next t) :
    (s.N ≤ s.pos ∧ t = s.faulted .pixelOverrun) ∨
    (s.pos < s.N ∧ t = { s with pix := s.pix.write s.pos (mapIndex s.pal idx), run := s.run - 1#7,
                                pos := if s.run - 1#7 = 0#7 then rowFill s.W (s.pos + 1) else s.pos + 1 }) := by
  unfold writeLiteral at h
  split at h
  · next hn => cases h; exact .inl ⟨hn, rfl⟩
  · next hn => cases h; exact .inr ⟨Nat.lt_of_not_le hn, rfl⟩

/-- Everything the payload step can do. -/
theorem payloadStep_cases {s t : State} (h : payloadStep s = .next t) :
    (s.len ≤ s.consumed ∧ t = s.faulted .truncatedRun) ∨
    (s.consumed < s.len ∧ fetchStreamByte s writeLiteral = .next t) := by
  unfold payloadStep at h
  split at h
  · next hc => cases h; exact .inl ⟨hc, rfl⟩
  · next hc => exact .inr ⟨by simpa [BitVec.lt_def, BitVec.le_def] using hc, h⟩

/-- What a failed palette load leaves. -/
theorem failLoad_eq (k : FaultKind) (s : State) : failLoad k s = .next (State.faulted
    { s with palValid := false, pal := Config.freePalette s.freeCount, freeCount := s.freeCount + 1 } k) := rfl

theorem endOfBlob_cases {s t : State} (h : endOfBlob s = .next t) :
    (s.pcnt ≠ 768 ∧ failLoad .invalidPaletteSize s = .next t) ∨
    (s.pcnt = 768 ∧ t = { s with pal := commitPalette s.pstage, palValid := true, phase := .idle }) := by
  unfold endOfBlob at h
  split at h
  · next hc => exact .inl ⟨hc, h⟩
  · next hc => cases h; exact .inr ⟨by simpa using hc, rfl⟩

/-- Everything the PALLOAD step can do. -/
theorem palloadStep_cases {s t : State} (h : palloadStep s = .next t) :
    (s.q = [] ∧ t = s) ∨
    (∃ rest, s.q = .err :: rest ∧ failLoad .ioFailure { s with q := rest } = .next t) ∨
    (∃ b rest, s.q = .byte b :: rest ∧ t = stageByte b { s with q := rest }) ∨
    (∃ rest, s.q = .eos :: rest ∧ endOfBlob { s with q := rest } = .next t) := by
  rcases takeToken_cases h with ⟨hq, rfl⟩ | ⟨tok, rest, hq, h⟩
  · exact .inl ⟨hq, rfl⟩
  · cases tok with
    | byte b => cases h; exact .inr (.inr (.inl ⟨b, rest, hq, rfl⟩))
    | eos => exact .inr (.inr (.inr ⟨rest, hq, h⟩))
    | err => exact .inr (.inl ⟨rest, hq, h⟩)

/-- An entry of a committed palette comes from its three staged bytes. -/
theorem commitPalette_get (stage : Staging) (i : Nat) (h : i < 256) :
    (commitPalette stage)[i] = { b := stage[3 * i], g := stage[3 * i + 1], r := stage[3 * i + 2] } := by
  simp [commitPalette, stagedEntry]

/-- The staged bytes after one more. -/
theorem stageByte_get (b : Byte) (s : State) (k : Nat) (h : k < 768) :
    (stageByte b s).pstage[k] = if k = s.pcnt then b else s.pstage[k] := by
  unfold stageByte
  by_cases hp : s.pcnt < 768
  · simp only [hp, dite_true]
    rw [Vector.getElem_set]
    by_cases e : s.pcnt = k
    · simp [e]
    · simp [e, Ne.symm e]
  · have : k ≠ s.pcnt := by omega
    simp [hp, this]

theorem stageByte_pcnt (b : Byte) (s : State) :
    (stageByte b s).pcnt = if s.pcnt < 769 then s.pcnt + 1 else s.pcnt := rfl

/-! ### The register interface -/

theorem writable_iff (n : Nat) : writable n = true ↔ n = 3 ∨ n = 4 ∨ (8 ≤ n ∧ n ≤ 15) := by
  simp [writable, or_assoc]

/-- Everything a write to a register other than `CMD` can do. -/
theorem regWrite_cases {n : Nat} {v : Word} {s t : State} (h : regWrite n v s = .next t) :
    (∃ r, r ≠ .none ∧ t = s.refusedWith r) ∨ (s.phase = .idle ∧ writable n = true ∧ t = (s.setReg n v).accepted) := by
  unfold regWrite at h
  split at h
  · next hw =>
    split at h
    · next hp => cases h; exact .inr ⟨hp, hw, rfl⟩
    · cases h; exact .inl ⟨.wrongState, by decide, rfl⟩
  · cases h; exact .inl ⟨.badRegister, by decide, rfl⟩

/-- Everything a pixel read can do. -/
theorem pixRead_cases {i : Nat} {s t : State} (h : pixRead i s = .next t) :
    (s.phase = .done ∧ i < s.N ∧ ∃ w, s.pix.read i = some w ∧ t = s.answered (.pixel w)) ∨
    (¬(s.phase = .done ∧ i < s.N) ∧ t = (s.answered .noPixel).refusedWith .notReadable) := by
  unfold pixRead at h
  split at h
  · next hp =>
    split at h
    · next w hw => cases h; exact .inl ⟨hp.1, hp.2, w, hw, rfl⟩
    · cases h
  · next hp => cases h; exact .inr ⟨hp, rfl⟩

end Sys2Proof.Machine
end

