-- ==== Sys2Proof/Laws/PerInstr.lean ====
section
/-! SUPPORT. A family of statements made per instruction: the opcode table's row of an instruction's code word carries
that instruction's mnemonic (30_encoding.md R70, R84). -/

namespace Sys2Proof.Laws.TableRow

/-- Looked up in the opcode table, rows in the order given, the code word of a well-formed instruction has its name. -/
def Statement (i : Instr) : Prop :=
  i.wellFormed = true → lookupMnemonic (encode i).tableWord.1 (encode i).tableWord.2 = some i.mnemonic

theorem eol : Statement .eol := by unfold Statement; decide

theorem skip (n : BitVec 7) : Statement (.skip n) := by revert n; unfold Statement; decide

theorem lit0 : Statement .lit0 := by unfold Statement; decide

theorem lit (n : BitVec 7) : Statement (.lit n) := by revert n; unfold Statement; decide

theorem palLoad : Statement .palLoad := by unfold Statement; decide

theorem start : Statement .start := by unfold Statement; decide

theorem ack : Statement .ack := by unfold Statement; decide

end Sys2Proof.Laws.TableRow
end

