-- ==== Sys2Proof/Laws/Step.lean ====
section
/-! SUPPORT. What one step can do, said once: who moves, what the block does in each phase, what the host does with each
operation. -/

namespace Sys2Proof.Machine

theorem step_nil {s : State} (h : s.script = []) : step s = blockStep s := by
  simp [step, agentStep, h]

theorem step_letBlock {s : State} {ops : List HostOp} (h : s.script = .letBlock :: ops) :
    step s = blockStep { s with script := ops } := by
  simp [step, agentStep, h, hostOperation]

theorem step_host {s : State} {op : HostOp} {ops : List HostOp} (h : s.script = op :: ops) (hop : op ≠ .await) :
    step s = hostOperation op { s with script := ops } := by
  simp [step, agentStep, h, hop]

/-- Who moves: the block, or the host with its next operation. -/
theorem step_cases {s t : State} (h : step s = .next t) :
    (blockStep s = .next t ∧ (s.script = [] ∨ ∃ ops, s.script = .await :: ops)) ∨
    (∃ op ops, s.script = op :: ops ∧ hostOperation op { s with script := ops } = .next t) := by
  unfold step agentStep at h
  split at h
  · next hs => exact .inl ⟨h, .inl hs⟩
  · next op ops hs =>
    split at h
    · next ha => exact .inl ⟨h, .inr ⟨ops, by rw [hs, ha.1]⟩⟩
    · exact .inr ⟨op, ops, hs, h⟩

/-- What the block does in each phase. -/
theorem blockStep_cases {s t : State} (h : blockStep s = .next t) :
    ((s.phase = .idle ∨ s.phase = .done ∨ s.phase = .fault) ∧ t = s) ∨
    (s.phase = .palload ∧ palloadStep s = .next t) ∨
    (s.phase = .fill ∧ t = { s with pix := Memory.tabulate s.N fun _ => some s.fill, phase := .decode }) ∨
    (s.phase = .decode ∧ decodeStep s = .next t) ∨
    (s.phase = .flip ∧ t = { s with pix := orient s, phase := .done }) := by
  unfold blockStep at h
  split at h <;> rename_i hp
  · cases h; exact .inl ⟨.inl hp, rfl⟩
  · exact .inr (.inl ⟨hp, h⟩)
  · cases h; exact .inr (.inr (.inl ⟨hp, rfl⟩))
  · exact .inr (.inr (.inr (.inl ⟨hp, h⟩)))
  · cases h; exact .inr (.inr (.inr (.inr ⟨hp, rfl⟩)))
  · cases h; exact .inl ⟨.inr (.inl hp), rfl⟩
  · cases h; exact .inl ⟨.inr (.inr hp), rfl⟩

/-- What a step of DECODE does. -/
theorem decodeStep_cases {s t : State} (h : decodeStep s = .next t) :
    (s.run = 0#7 ∧ s.len ≤ s.consumed ∧ t = { s with phase := .flip }) ∨
    (s.run = 0#7 ∧ s.consumed < s.len ∧ controlStep s = .next t) ∨
    (s.run ≠ 0#7 ∧ payloadStep s = .next t) := by
  unfold decodeStep at h
  split at h
  · next hr =>
    split at h
    · next hc => cases h; exact .inl ⟨hr, hc, rfl⟩
    · next hc => exact .inr (.inl ⟨hr, by simpa [BitVec.lt_def, BitVec.le_def] using hc, h⟩)
  · next hr => exact .inr (.inr ⟨hr, h⟩)

/-- A control byte decodes to one of the four control instructions. -/
theorem decodeControl_cases (b : Byte) :
    decodeControl b = .eol ∨ decodeControl b = .skip (count b) ∨ decodeControl b = .lit0 ∨
    decodeControl b = .lit (count b) := by
  unfold decodeControl
  split
  · exact .inl rfl
  · split
    · exact .inr (.inl rfl)
    · split
      · exact .inr (.inr (.inl rfl))
      · exact .inr (.inr (.inr rfl))

/-- A `CMD` value that decodes is one of the three codes. -/
theorem decodeCommand_cases {v : Word} {i : Instr} (h : decode (.command v) = .ok i) :
    (v = 1#32 ∧ i = .palLoad) ∨ (v = 2#32 ∧ i = .start) ∨ (v = 3#32 ∧ i = .ack) := by
  simp only [decode, decodeCommand] at h
  split at h
  · next e => cases h; exact .inl ⟨e, rfl⟩
  · split at h
    · next e => cases h; exact .inr (.inl ⟨e, rfl⟩)
    · split at h
      · next e => cases h; exact .inr (.inr ⟨e, rfl⟩)
      · cases h

/-- What a write to `CMD` does. -/
theorem commandWrite_cases {v : Word} {s t : State} (h : commandWrite v s = .next t) :
    (v = 1#32 ∧ execPalLoad s = .next t) ∨ (v = 2#32 ∧ execStart s = .next t) ∨ (v = 3#32 ∧ execAck s = .next t) ∨
    t = s.refusedWith .unknownCommand := by
  unfold commandWrite at h
  split at h
  · next i hi =>
    rcases decodeCommand_cases hi with ⟨rfl, rfl⟩ | ⟨rfl, rfl⟩ | ⟨rfl, rfl⟩
    · exact .inl ⟨rfl, h⟩
    · exact .inr (.inl ⟨rfl, h⟩)
    · exact .inr (.inr (.inl ⟨rfl, h⟩))
  · cases h; exact .inr (.inr (.inr rfl))

/-- What the host's operation does, one case each. -/
theorem hostOperation_cases {op : HostOp} {s t : State} (h : hostOperation op s = .next t) :
    (∃ n, op = .regRead n ∧ t = s.answered (.reg (regRead s n))) ∨
    (∃ v, op = .regWrite 0 v ∧ commandWrite v s = .next t) ∨
    (∃ n v, n ≠ 0 ∧ op = .regWrite n v ∧ regWrite n v s = .next t) ∨
    (∃ i, op = .pixRead i ∧ pixRead i s = .next t) ∨
    (∃ tok, op = .push tok ∧ t = { s with q := s.q ++ [tok] }) ∨
    (op = .discard ∧ t = { s with q := [] }) ∨
    (op = .reset ∧ t = s.afterReset) ∨
    (op = .letBlock ∧ blockStep s = .next t) ∨
    (op = .await ∧ t = s) := by
  cases op with
  | regRead n => cases h; exact .inl ⟨n, rfl, rfl⟩
  | regWrite n v =>
    simp only [hostOperation] at h
    split at h
    · next e => subst e; exact .inr (.inl ⟨v, rfl, h⟩)
    · next e => exact .inr (.inr (.inl ⟨n, v, e, rfl, h⟩))
  | pixRead i => exact .inr (.inr (.inr (.inl ⟨i, rfl, h⟩)))
  | push tok => cases h; exact .inr (.inr (.inr (.inr (.inl ⟨tok, rfl, rfl⟩))))
  | discard => cases h; exact .inr (.inr (.inr (.inr (.inr (.inl ⟨rfl, rfl⟩)))))
  | reset => cases h; exact .inr (.inr (.inr (.inr (.inr (.inr (.inl ⟨rfl, rfl⟩))))))
  | letBlock => exact .inr (.inr (.inr (.inr (.inr (.inr (.inr (.inl ⟨rfl, h⟩)))))))
  | await => cases h; exact .inr (.inr (.inr (.inr (.inr (.inr (.inr (.inr ⟨rfl, rfl⟩)))))))

/-! ### The step of DECODE in each situation -/

theorem blockStep_decode {s : State} (h : s.phase = .decode) : blockStep s = decodeStep s := by
  simp [blockStep, h]

theorem blockStep_palload {s : State} (h : s.phase = .palload) : blockStep s = palloadStep s := by
  simp [blockStep, h]

theorem decodeStep_exit {s : State} (hr : s.run = 0#7) (hc : s.len ≤ s.consumed) :
    decodeStep s = .next { s with phase := .flip } := by
  simp [decodeStep, hr, hc, exitStep]

theorem decodeStep_control {s : State} (hr : s.run = 0#7) (hc : s.consumed < s.len) :
    decodeStep s = fetchStreamByte s fun b s => exec (decodeControl b) s := by
  simp [decodeStep, hr, BitVec.not_le.2 hc, controlStep]

theorem decodeStep_payload {s : State} (hr : s.run ≠ 0#7) (hc : s.consumed < s.len) :
    decodeStep s = fetchStreamByte s writeLiteral := by
  simp [decodeStep, hr, payloadStep, BitVec.not_le.2 hc]

theorem decodeStep_truncated {s : State} (hr : s.run ≠ 0#7) (hc : s.len ≤ s.consumed) :
    decodeStep s = .next (s.faulted .truncatedRun) := by
  simp [decodeStep, hr, payloadStep, hc]

/-- The write of a literal pixel inside the buffer. -/
theorem writeLiteral_inside {idx : Byte} {s : State} (h : s.pos < s.N) :
    writeLiteral idx s = .next { s with
      pix := s.pix.write s.pos (mapIndex s.pal idx)
      run := s.run - 1#7
      pos := if s.run - 1#7 = 0#7 then rowFill s.W (s.pos + 1) else s.pos + 1 } := by
  simp [writeLiteral, Nat.not_le.2 h]

theorem writeLiteral_outside {idx : Byte} {s : State} (h : s.N ≤ s.pos) :
    writeLiteral idx s = .next (s.faulted .pixelOverrun) := by
  simp [writeLiteral, h]

/-- The run counter reaches zero exactly when it was one. -/
theorem run_sub_eq_zero (r : BitVec 7) : r - 1#7 = 0#7 ↔ r = 1#7 := by
  constructor
  · intro h; simpa using congrArg (· + 1#7) h
  · intro h; simp [h]

theorem run_sub_toNat {r : BitVec 7} (h : r ≠ 0#7) : (r - 1#7).toNat = r.toNat - 1 := by
  have : r.toNat ≠ 0 := fun e => h (by simpa using BitVec.eq_of_toNat_eq e)
  have := r.isLt
  simp only [BitVec.toNat_sub, BitVec.toNat_ofNat]
  omega

/-- The byte counter does not wrap where a byte is counted. -/
theorem consumed_succ_toNat {c l : BitVec 32} (h : c < l) : (c + 1#32).toNat = c.toNat + 1 := by
  have h1 : c.toNat < l.toNat := h
  have := l.isLt
  simp only [BitVec.toNat_add, BitVec.toNat_ofNat]
  omega

/-- The row-fill decrement moves the cursor back by at most one. -/
theorem rowFill_bounds (w pos : Nat) : pos - 1 ≤ rowFill w pos ∧ rowFill w pos ≤ pos := by
  unfold rowFill; split <;> omega

/-- The jump of `EOL` goes forward by at most a row. -/
theorem nextRow_bounds {w : Nat} (pos : Nat) (h : 1 ≤ w) : pos < nextRow w pos ∧ nextRow w pos ≤ pos + w := by
  have e := Nat.div_add_mod pos w
  have hm := Nat.mod_lt pos (y := w) (by omega)
  have : nextRow w pos = w * (pos / w) + w := by simp only [nextRow]; rw [Nat.add_mul, Nat.mul_comm]; omega
  omega

/-- Row reversal stays inside the buffer. -/
theorem mirror_lt {w h i : Nat} (hi : i < w * h) : mirror w h i < w * h := by
  have hw : 0 < w := Nat.pos_of_ne_zero (by rintro rfl; simp at hi)
  have hd : i / w < h := (Nat.div_lt_iff_lt_mul hw).2 (by rwa [Nat.mul_comm])
  unfold mirror
  generalize i / w = d at hd
  calc (h - 1 - d) * w + i % w < (h - 1 - d) * w + w := Nat.add_lt_add_left (Nat.mod_lt i hw) _
    _ = (h - 1 - d + 1) * w := by rw [Nat.add_mul, Nat.one_mul]
    _ ≤ h * w := Nat.mul_le_mul_right _ (by omega)
    _ = w * h := Nat.mul_comm _ _

end Sys2Proof.Machine
end

