-- ==== Sys2Proof/Laws/Run.lean ====
section
/-! SUPPORT. Runs of several steps: one step and the rest, runs in sequence, runs of a resting machine. -/

namespace Sys2Proof.Machine

@[simp] theorem core_run_zero (s : State) : core.run 0 s = .next s := rfl

/-- A run whose first step answers a next state goes on from there. -/
theorem core_run_next {k : Nat} {s t : State} (h : step s = .next t) : core.run (k + 1) s = core.run k t := by
  simp only [Host.Core.run]
  rw [show core.step s = .next t from h]

/-- Runs in sequence. -/
theorem core_run_add {j k : Nat} {s t : State} (h : core.run j s = .next t) :
    core.run (j + k) s = core.run k t := by
  induction j generalizing s with
  | zero => cases h; rw [Nat.zero_add]
  | succ j ih =>
    rw [Nat.add_right_comm]
    cases hs : step s with
    | next u => rw [core_run_next hs] at h ⊢; exact ih h
    | fault r =>
      simp only [Host.Core.run] at h
      rw [show core.step s = .fault r from hs] at h; cases h
    | refused r =>
      simp only [Host.Core.run] at h
      rw [show core.step s = .refused r from hs] at h; cases h

/-- A state whose step leaves it as it is stays through any run. -/
theorem core_run_rest {s : State} (h : step s = .next s) (k : Nat) : core.run k s = .next s := by
  induction k with
  | zero => rfl
  | succ k ih => rw [core_run_next h, ih]

end Sys2Proof.Machine
end

