-- ==== Sys2Proof/Tests/Slice0.lean ====
section
/-! SUPPORT. The row's own tests. Expected values are the spec's, from its encodings and from 95_test_vectors.md; the
last part shows, for each obligation with hypotheses, states and operands that meet them. -/

namespace Sys2Proof.Tests

open Sys2Proof Sys2Proof.Machine

/-! ### Well-formedness refuses what no encoding has (30_encoding.md R70, R71, R83) -/

theorem test_wf_refuses_skip_0 : (Instr.skip 0#7).wellFormed = false := by decide
theorem test_wf_refuses_lit_0 : (Instr.lit 0#7).wellFormed = false := by decide
theorem test_wf_refuses_command_skip_0 : (Command.skip 0#7).wellFormed = false := by decide
theorem test_wf_refuses_empty_payload : (Command.lit []).wellFormed = false := by decide
theorem test_wf_refuses_payload_of_128 : (Command.lit (List.replicate 128 0#8)).wellFormed = false := by simp [Command.wellFormed]
theorem test_wf_refuses_truncated_inside : (Command.truncatedLit 2#7 [1#8]).wellFormed = false := by decide
theorem test_wf_refuses_truncated_whole : (Command.truncatedLit 2#7 [1#8, 2#8]).wellFormedLast = false := by decide
theorem test_wf_params : ¬ Params.wf { maxPixels := 0#64, emptyLit := .nop } := by decide

/-! ### Decoding: every row's word, written out from 30_encoding.md R70 and R75 -/

theorem test_decode_eol : decodeControl 0b10000000#8 = .eol := by decide
theorem test_decode_skip : decodeControl 0b10000101#8 = .skip 5#7 := by decide
theorem test_decode_lit0 : decodeControl 0b00000000#8 = .lit0 := by decide
theorem test_decode_lit : decodeControl 0b01000010#8 = .lit 66#7 := by decide
theorem test_decode_pal_load : decodeCommand 0x00000001#32 = .ok .palLoad := by decide
theorem test_decode_start : decodeCommand 0x00000002#32 = .ok .start := by decide
theorem test_decode_ack : decodeCommand 0x00000003#32 = .ok .ack := by decide
/-- The full 32-bit value is compared (10_state.md R24). -/
theorem test_decode_no_subfield : decodeCommand 0x00000101#32 = .error (.unknownCommand 0x101#32) := by decide
theorem test_decode_no_byte : decodeBytes [] = .error .noByte := by decide
theorem test_decode_table_words :
    decodeTableWord 8 0x80 = some .eol ∧ decodeTableWord 8 0x7F = some (.lit 127#7) ∧
    decodeTableWord 32 2 = some .start ∧ decodeTableWord 32 0 = none ∧ decodeTableWord 16 0 = none := by decide

/-- A payload byte `0x80` is an index, not a marker (30_encoding.md R68, vector C14). -/
theorem test_parse_payload_is_not_inspected : parse [0x02#8, 0x80#8, 0x00#8] = [.lit [0x80#8, 0x00#8]] := by decide

/-! ### Small states -/

/-- A unit with a palette and a descriptor, in `IDLE`. -/
def unit (w h len : Nat) : State :=
  { State.reset with
    palValid := true
    desc := { State.reset.desc with
      width := BitVec.ofNat 32 w
      height := BitVec.ofNat 32 h
      length := BitVec.ofNat 32 len } }

/-- A unit in `DECODE` with tokens queued. -/
def decoding (w h len : Nat) (q : List Token) : State :=
  { unit w h len with
    phase := .decode
    q := q }

/-- A unit in `PALLOAD` with tokens queued. -/
def loading (pcnt : Nat) (q : List Token) : State :=
  { State.reset with
    phase := .palload
    pcnt := pcnt
    q := q }

/-- The same with `EMPTY_LIT` set. -/
def withEmptyLit (e : EmptyLit) (s : State) : State :=
  { s with params := { s.params with emptyLit := e } }

/-- The same with the cursor set. -/
def at_ (pos : Nat) (s : State) : State := { s with pos := pos }

/-- The same with the next host operation set. -/
def doing (op : HostOp) (s : State) : State := { s with script := [op] }

/-- What a step leaves, read through a field. -/
def after {α : Type} (f : State → α) (s : State) : Option α :=
  match step s with
  | .next t => some (f t)
  | .fault _ => none
  | .refused _ => none

/-! ### One step of each instruction -/

/-- Vector C3: `EOL` from column 1 of row 1, `(5/4+1)*4`. -/
theorem test_eol_jumps : after (·.pos) (at_ 5 (decoding 4 3 2 [.byte 0x80#8])) = some 8 := by decide
/-- 40_rle_commands.md R89: `POS = 8` gives 12. -/
theorem test_eol_at_column_zero : after (·.pos) (at_ 8 (decoding 4 3 2 [.byte 0x80#8])) = some 12 := by decide
/-- 40_rle_commands.md R88: `W = 4`, `POS = 1`, byte `0x82` gives `POS = 3`, `CONSUMED + 1`. -/
theorem test_skip_moves :
    after (fun t => (t.pos, t.consumed)) (at_ 1 (decoding 4 2 2 [.byte 0x82#8])) = some (3, 1#32) := by decide
/-- 40_rle_commands.md R88: `W = 4`, `POS = 3`, `SKIP 3` gives `POS = 6`. -/
theorem test_skip_crosses_rows : after (·.pos) (at_ 3 (decoding 4 2 2 [.byte 0x83#8])) = some 6 := by decide
/-- Vector Z1: `ReservedCommand`, `POS = 4`, `CONSUMED` counts the byte. -/
theorem test_lit0_faults :
    after (fun t => (t.phase, t.faultKind, t.pos, t.consumed)) (at_ 4 (decoding 4 2 2 [.byte 0x00#8])) =
      some (.fault, .reservedCommand, 4, 1#32) := by decide
/-- Vector Z3: under `decrement` the cursor steps back from a row start. -/
theorem test_lit0_decrements :
    after (·.pos) (withEmptyLit .decrement (at_ 4 (decoding 4 2 2 [.byte 0x00#8]))) = some 3 := by decide
/-- 40_rle_commands.md R90: byte `0x02` gives `RUN = 2`. -/
theorem test_lit_sets_run :
    after (fun t => (t.run, t.pos, t.consumed)) (decoding 2 1 3 [.byte 0x02#8]) = some (2#7, 0, 1#32) := by decide
/-- Scenario S2, last payload byte: `POS` goes to 2, then 1 by the decrement, 3 bytes consumed. -/
theorem test_lit_row_fill :
    after (fun t => (t.run, t.pos, t.consumed))
      { decoding 2 1 3 [.byte 0x01#8] with run := 1#7, pos := 1, consumed := 2#32 } = some (0#7, 1, 3#32) := by decide
/-- `PAL_LOAD` from reset is accepted (41_palette_mapper.md R103). -/
theorem test_pal_load_accepted :
    after (fun t => (t.phase, t.refusal)) (doing (.regWrite 0 1#32) State.reset) = some (.palload, .none) := by decide
/-- Vector L8: a second load is refused, `REFUSAL = 5`. -/
theorem test_pal_load_locked :
    after (fun t => (t.phase, regRead t 2)) (doing (.regWrite 0 1#32) (unit 1 1 1)) = some (.idle, 5#32) := by decide
/-- Vector G9: `NoPalette` is tested before `ZeroArea`. -/
theorem test_start_no_palette :
    after (fun t => regRead t 2) (doing (.regWrite 0 2#32) State.reset) = some 2#32 := by decide
/-- Vector G8: the largest frame is accepted with the largest `MAX_PIXELS`. -/
theorem test_start_accepted :
    after (fun t => (t.phase, regRead t 2)) (doing (.regWrite 0 2#32) (unit 0xFFFFFFFF 0xFFFFFFFF 0)) =
      some (.fill, 0#32) := by decide
/-- Vector G12: `ACK` in `IDLE` is refused, `REFUSAL = 1`. -/
theorem test_ack_refused : after (fun t => regRead t 2) (doing (.regWrite 0 3#32) (unit 1 1 1)) = some 1#32 := by decide
/-- Vector G22: after `ACK` in `DONE`, `STATUS` reads `0x00000008`. -/
theorem test_ack_status :
    after (fun t => regRead t 1) (doing (.regWrite 0 3#32) { unit 1 1 1 with phase := .done }) = some 0x8#32 := by decide

/-! ### The palette, the flip, the status word -/

/-- Scenario S1: the first triple of the blob, `00 00 FF`, is entry 0, RGB(255,0,0). -/
theorem test_commit_reorders :
    (commitPalette ((Vector.replicate 768 0#8).set 2 0xFF#8))[0] = { r := 0xFF#8, g := 0x00#8, b := 0x00#8 } := by
  simp [commitPalette, stagedEntry]
/-- Test palette T, entry 1: `Map(1) = 0x01FE07FF`. -/
theorem test_map_packs :
    mapIndex ((Vector.replicate 256 ⟨0#8, 0#8, 0#8⟩).set 1 ⟨0x01#8, 0xFE#8, 0x07#8⟩) 1#8 = 0x01FE07FF#32 := by decide
/-- Vector F3: the rows of a 2 by 3 buffer change places, the middle one stays. -/
theorem test_flip_rows : (List.range 6).map (mirror 2 3) = [4, 5, 2, 3, 0, 1] := by decide
/-- Vector G20: in `FAULT` after X5, `STATUS` reads `0x0000005E`. -/
theorem test_status_word :
    regRead { unit 2 1 4 with phase := .fault, faultKind := .pixelOverrun } 1 = 0x5E#32 := by decide
/-- Vector X7: truncation wins over the overrun. -/
theorem test_truncation_wins :
    after (fun t => (t.faultKind, t.consumed, t.pos))
      { decoding 1 1 2 [.byte 2#8] with run := 1#7, pos := 1, consumed := 2#32 } =
      some (.truncatedRun, 2#32, 1) := by decide
/-- The encoder drops trailing transparent pixels and splits a long run (70_reset_and_hazards.md R183, 30_encoding.md
R82). -/
theorem test_encode_row :
    encodeRow [none, some 7#8, some 8#8, none] = [.skip 1#7, .lit [7#8, 8#8], .eol] := by decide

/-! ### Placing an instruction -/

/-- From reset, a placed control byte is the very next instruction (log 13). -/
theorem test_fetch_word_control :
    after (fun t => (t.pos, t.consumed)) (State.reset.withFetchWord 8 0x85) = some (5, 1#32) := by decide
/-- From reset, a placed command is the very next instruction (log 13). -/
theorem test_fetch_word_command :
    after (·.phase) (State.reset.withFetchWord 32 1) = some .palload := by decide

/-! ### States that meet the invariant -/

/-- A frame of 2 by 1 whose decode ended, in `FLIP`, with the buffer of scenario S2. -/
def flipping : State :=
  { unit 2 1 3 with
    phase := .flip
    pos := 1
    consumed := 3#32
    pix := [(0, 0xFF0000FF#32), (1, 0x0000FFFF#32)] }

/-- The same in `DONE`. -/
def finished : State := { flipping with phase := .done }

/-- A frame of 2 by 1 just started, its stream queued. -/
def filling : State :=
  { unit 2 1 3 with
    phase := .fill
    q := [.byte 0x02#8, .byte 0x00#8, .byte 0x01#8] }

/-- The same with a filled buffer, in `DECODE`. -/
def filled : State := { filling with phase := .decode, pix := [(0, 0#32), (1, 0#32)] }

theorem test_inv_loading : (loading 0 [.eos]).Inv := by
  constructor <;>
    simp [loading, State.reset, Config.resetParams, Memory.wf, Phase.inFrame, Phase.hasPixels]

theorem test_inv_unit : (unit 2 1 3).Inv := by
  constructor <;> simp [unit, State.reset, Config.resetParams, Memory.wf, Phase.inFrame, Phase.hasPixels]

theorem test_inv_filling : filling.Inv := by
  constructor <;>
    simp [filling, unit, State.reset, Config.resetParams, Memory.wf, Phase.inFrame, Phase.hasPixels, State.W, State.H,
      State.N, State.len]

theorem test_pixels_written (a b : PixelWord) (i : Nat) :
    (Memory.read [(0, a), (1, b)] i).isSome = true ↔ i < 2 := by
  match i with
  | 0 => simp
  | 1 => simp
  | k + 2 => simp

theorem test_inv_filled : filled.Inv where
  pixWf := by decide
  paramsWf := by decide
  faultCode := by decide
  blockFaults := by decide
  loading := by decide
  pcntLe := by decide
  framed := by decide
  consumedLe := by decide
  posStride := by decide
  posLe := by decide
  filling := by decide
  filled := fun _ => test_pixels_written _ _
  finished := by decide

theorem test_inv_flipping : flipping.Inv where
  pixWf := by decide
  paramsWf := by decide
  faultCode := by decide
  blockFaults := by decide
  loading := by decide
  pcntLe := by decide
  framed := by decide
  consumedLe := by decide
  posStride := by decide
  posLe := by decide
  filling := by decide
  filled := fun _ => test_pixels_written _ _
  finished := by decide

theorem test_inv_finished : finished.Inv where
  pixWf := by decide
  paramsWf := by decide
  faultCode := by decide
  blockFaults := by decide
  loading := by decide
  pcntLe := by decide
  framed := by decide
  consumedLe := by decide
  posStride := by decide
  posLe := by decide
  filling := by decide
  filled := fun _ => test_pixels_written _ _
  finished := by decide

/-! ### Witnesses: states and operands that meet an obligation's hypotheses, clause by clause -/

theorem test_wit_EncodeAndDecodeAgree :
    (Instr.skip 1#7).wellFormed = true ∧ (Instr.skip 127#7).wellFormed = true ∧ (Instr.lit 1#7).wellFormed = true ∧
    (Instr.lit 127#7).wellFormed = true ∧ Instr.eol.wellFormed = true ∧ Instr.ack.wellFormed = true := by decide

theorem test_wit_OpcodeTableNamesTheDecodedInstruction :
    decode (.command 3#32) = .ok .ack ∧ decode (.command 0xFFFFFFFF#32) = .error (.unknownCommand 0xFFFFFFFF#32) := by
  decide

theorem test_wit_ParseInvertsAssembly :
    ((∀ c ∈ [Command.eol, .skip 127#7, .lit0, .lit [1#8]], c.wellFormed = true) ∧
      (Command.truncatedLit 127#7 [5#8]).wellFormedLast = true) ∧
    ((∀ c ∈ ([] : List Command), c.wellFormed = true) ∧ (Command.lit [1#8, 2#8]).wellFormedLast = true) := by decide

theorem test_wit_StepRunsTheDecodedInstruction :
    (∃ s b rest, State.script s = [] ∧ s.phase = .decode ∧ s.run = 0#7 ∧ s.consumed < s.len ∧
      s.q = Token.byte b :: rest) ∧
    (∃ (s : State) (ops : List HostOp), s.script = .letBlock :: ops) ∧
    (∃ (s : State) (v : Word) (i : Instr) (ops : List HostOp), s.script = .regWrite 0 v :: ops ∧
      decode (.command v) = .ok i) :=
  ⟨⟨decoding 1 1 1 [.byte 0x81#8, .err], 0x81#8, [.err], by decide⟩,
   ⟨doing .letBlock State.reset, [], by decide⟩, ⟨doing (.regWrite 0 3#32) State.reset, 3#32, .ack, [], by decide⟩⟩

theorem test_wit_EolJumpsToTheNextRow :
    (∃ s : State, 1 ≤ s.W ∧ s.W = 1) ∧ (∃ s : State, 1 ≤ s.W ∧ s.W = 2 ^ 32 - 1) :=
  ⟨⟨unit 1 1 1, by decide⟩, ⟨unit 0xFFFFFFFF 1 1, by decide⟩⟩

theorem test_wit_EolAddsTheRestOfTheRow : ∃ w pos : Nat, 1 ≤ w ∧ pos % w = 0 ∧ 0 < pos := ⟨4, 8, by decide⟩

theorem test_wit_ZeroWidthStopsTheRowCommands :
    ∃ s : State, s.W = 0 ∧ s.params.emptyLit = .decrement := ⟨withEmptyLit .decrement State.reset, by decide⟩

theorem test_wit_ReservedByteFollowsEmptyLit :
    (∃ s : State, s.params.emptyLit = .fault) ∧ (∃ s : State, s.params.emptyLit = .nop) ∧
    (∃ s : State, s.params.emptyLit = .decrement ∧ 1 ≤ s.W ∧ s.pos % s.W = 0 ∧ s.pos = 0) ∧
    (∃ s : State, s.params.emptyLit = .decrement ∧ 1 ≤ s.W ∧ s.pos % s.W = 0 ∧ s.pos ≠ 0) ∧
    (∃ s : State, s.params.emptyLit = .decrement ∧ 1 ≤ s.W ∧ s.pos % s.W ≠ 0) :=
  ⟨⟨State.reset, by decide⟩, ⟨withEmptyLit .nop State.reset, by decide⟩,
   ⟨withEmptyLit .decrement (unit 1 1 1), by decide⟩, ⟨withEmptyLit .decrement (at_ 1 (unit 1 1 1)), by decide⟩,
   ⟨withEmptyLit .decrement (at_ 1 (unit 2 1 1)), by decide⟩⟩

/-- A payload byte is due. -/
def owing (run : Nat) (s : State) : State := { s with run := BitVec.ofNat 7 run }

theorem test_wit_PayloadStepWritesOnePixelOrFaults :
    (∃ s : State, (s.script = [] ∧ s.phase = .decode ∧ s.run ≠ 0#7) ∧ s.consumed = s.len) ∧
    (∃ (s : State) (rest : List Token), (s.script = [] ∧ s.phase = .decode ∧ s.run ≠ 0#7) ∧ s.consumed < s.len ∧
      s.q = .err :: rest) ∧
    (∃ (s : State) (rest : List Token), (s.script = [] ∧ s.phase = .decode ∧ s.run ≠ 0#7) ∧ s.consumed < s.len ∧
      s.q = .eos :: rest) ∧
    (∃ (s : State) (rest : List Token) (idx : Byte), (s.script = [] ∧ s.phase = .decode ∧ s.run ≠ 0#7) ∧
      s.consumed < s.len ∧ s.q = .byte idx :: rest ∧ s.N ≤ s.pos) ∧
    (∃ (s : State) (rest : List Token) (idx : Byte), (s.script = [] ∧ s.phase = .decode ∧ s.run ≠ 0#7) ∧
      s.consumed < s.len ∧ s.q = .byte idx :: rest ∧ s.pos < s.N ∧ s.run = 1#7 ∧ (s.pos + 1) % s.W = 0) :=
  ⟨⟨owing 127 (decoding 1 1 0 []), by decide⟩,
   ⟨owing 1 (decoding 1 1 1 [.err]), [], by decide⟩, ⟨owing 1 (decoding 1 1 1 [.eos]), [], by decide⟩,
   ⟨owing 1 (at_ 1 (decoding 1 1 1 [.byte 9#8])), [], 9#8, by decide⟩,
   ⟨owing 1 (decoding 1 1 1 [.byte 9#8]), [], 9#8, by decide⟩⟩

theorem test_wit_ControlFetchFaultsWithoutAByte :
    (∃ (s : State) (rest : List Token), s.script = [] ∧ s.phase = .decode ∧ s.run = 0#7 ∧ s.consumed < s.len ∧
      s.q = .err :: rest) ∧
    (∃ (s : State) (rest : List Token), s.script = [] ∧ s.phase = .decode ∧ s.run = 0#7 ∧ s.consumed < s.len ∧
      s.q = .eos :: rest) :=
  ⟨⟨decoding 1 1 1 [.err], [], by decide⟩, ⟨decoding 1 1 1 [.eos], [], by decide⟩⟩

/-- Vector C13: `LEN = 0`. -/
theorem test_wit_ExitStepEndsTheDecode :
    ∃ s : State, s.script = [] ∧ s.phase = .decode ∧ s.run = 0#7 ∧ s.consumed = s.len :=
  ⟨decoding 2 2 0 [.err], by decide⟩

theorem test_wit_LiteralRunWritesItsPixels :
    ∃ (s : State) (n : BitVec 7) (payload : List Byte) (rest : List Token),
      s.script = [] ∧ s.phase = .decode ∧ s.run = 0#7 ∧ n ≠ 0#7 ∧ payload.length = n.toNat ∧
      s.q = .byte (0#1 ++ n) :: payload.map Token.byte ++ rest ∧
      s.consumed.toNat + 1 + n.toNat ≤ s.len.toNat ∧ s.pos + n.toNat ≤ s.N :=
  ⟨decoding 2 1 3 [.byte 2#8, .byte 0#8, .byte 1#8], 2#7, [0#8, 1#8], [], by decide⟩

theorem test_wit_CursorNeverDecreases :
    ∃ s t : State, s.script = [] ∧ s.phase = .decode ∧ s.params.emptyLit ≠ .decrement ∧ step s = .next t :=
  ⟨decoding 1 1 1 [.byte 0x80#8], _, by decide, by decide, by decide, rfl⟩

theorem test_wit_ControlByteFrame :
    (∃ s t : State, exec .eol s = .next t) ∧ (∃ s t : State, exec (.skip 127#7) s = .next t) ∧
    (∃ s t : State, exec (.lit 1#7) s = .next t) ∧ (∃ s t : State, exec .lit0 s = .next t) :=
  ⟨⟨unit 1 1 1, _, rfl⟩, ⟨unit 1 1 1, _, rfl⟩, ⟨unit 1 1 1, _, rfl⟩, ⟨withEmptyLit .nop (unit 1 1 1), _, rfl⟩⟩

theorem test_wit_BlockWritesPixelsOnlyAtTheCursor :
    (∃ (s t : State) (i : Nat), blockStep s = .next t ∧ t.phase ≠ .fault ∧ s.phase = .decode ∧ i ≠ s.pos) ∧
    (∃ s t : State, blockStep s = .next t ∧ t.phase ≠ .fault ∧ s.phase = .palload) :=
  ⟨⟨owing 1 (decoding 1 1 1 [.byte 9#8]), _, 1, rfl, by decide⟩, ⟨loading 768 [.byte 1#8], _, rfl, by decide⟩⟩

theorem test_wit_BytesAreCountedOnce : ∃ s t : State, blockStep s = .next t :=
  ⟨decoding 1 1 1 [.byte 0x80#8], _, rfl⟩

theorem test_wit_PalLoadBeginsALoad :
    (∃ s : State, s.phase = .idle ∧ s.palValid = false) ∧ (∃ s : State, s.phase ≠ .idle) ∧
    (∃ s : State, s.phase = .idle ∧ s.palValid = true) :=
  ⟨⟨State.reset, by decide⟩, ⟨loading 0 [], by decide⟩, ⟨unit 1 1 1, by decide⟩⟩

theorem test_wit_BlobBytesAreStaged :
    (∃ (s : State) (b : Byte) (rest : List Token), s.script = [] ∧ s.phase = .palload ∧ s.q = .byte b :: rest ∧
      s.pcnt = 767) ∧
    (∃ (s : State) (b : Byte) (rest : List Token), s.script = [] ∧ s.phase = .palload ∧ s.q = .byte b :: rest ∧
      s.pcnt = 769) ∧
    (∃ (s : State) (rest : List Token), s.script = [] ∧ s.phase = .palload ∧ s.q = .err :: rest) :=
  ⟨⟨loading 767 [.byte 1#8], 1#8, [], by decide⟩, ⟨loading 769 [.byte 1#8], 1#8, [], by decide⟩,
   ⟨loading 10 [.err], [], by decide⟩⟩

theorem test_wit_EndOfBlobChecksTheSize :
    (∃ (s : State) (rest : List Token), s.script = [] ∧ s.phase = .palload ∧ s.q = .eos :: rest ∧ s.pcnt = 768) ∧
    (∃ (s : State) (rest : List Token), s.script = [] ∧ s.phase = .palload ∧ s.q = .eos :: rest ∧ s.pcnt ≠ 768) :=
  ⟨⟨loading 768 [.eos], [], by decide⟩, ⟨loading 769 [.eos, .err], [.err], by decide⟩⟩

theorem test_wit_WholeBlobBecomesThePalette :
    (∃ (s : State) (blob : List Byte) (rest : List Token), s.script = [] ∧ s.phase = .palload ∧ s.pcnt = 0 ∧
      s.q = blob.map Token.byte ++ .eos :: rest ∧ blob.length = 768) ∧
    (∃ (s : State) (blob : List Byte) (rest : List Token), s.script = [] ∧ s.phase = .palload ∧ s.pcnt = 0 ∧
      s.q = blob.map Token.byte ++ .eos :: rest ∧ blob.length ≠ 768) :=
  ⟨⟨loading 0 ((List.replicate 768 0#8).map Token.byte ++ [.eos]), List.replicate 768 0#8, [], rfl, rfl, rfl, rfl,
     List.length_replicate⟩,
   ⟨loading 0 [.eos], [], [], by decide⟩⟩

theorem test_wit_LoadedPaletteIsImmutable :
    ∃ s t : State, s.Inv ∧ s.palValid = true ∧ s.script.head? ≠ some .reset ∧ step s = .next t :=
  ⟨filled, _, test_inv_filled, by decide, by decide, rfl⟩

theorem test_wit_StartChecksThenBeginsTheFrame :
    (∃ s : State, s.phase = .idle ∧ s.palValid = true ∧ s.desc.width ≠ 0#32 ∧ s.desc.height ≠ 0#32 ∧
      s.desc.width.toNat * s.desc.height.toNat ≤ s.params.maxPixels.toNat) ∧
    (∃ s : State, s.phase ≠ .idle) ∧ (∃ s : State, s.phase = .idle ∧ s.palValid = false) ∧
    (∃ s : State, s.phase = .idle ∧ s.palValid = true ∧ s.desc.width = 0#32) ∧
    (∃ s : State, s.phase = .idle ∧ s.palValid = true ∧ s.desc.height = 0#32) ∧
    (∃ s : State, s.phase = .idle ∧ s.palValid = true ∧ s.desc.width ≠ 0#32 ∧ s.desc.height ≠ 0#32 ∧
      s.params.maxPixels.toNat < s.desc.width.toNat * s.desc.height.toNat) :=
  ⟨⟨unit 0xFFFFFFFF 0xFFFFFFFF 0, by decide⟩, ⟨decoding 1 1 1 [], by decide⟩, ⟨State.reset, by decide⟩,
   ⟨unit 0 5 0, by decide⟩, ⟨unit 5 0 0, by decide⟩,
   ⟨{ unit 3 3 0 with params := { maxPixels := 8#64, emptyLit := .fault } }, by decide⟩⟩

theorem test_wit_AckReleasesTheBlock :
    (∃ s : State, s.phase = .done) ∧ (∃ s : State, s.phase = .fault) ∧
    (∃ s : State, s.phase ≠ .done ∧ s.phase ≠ .fault) :=
  ⟨⟨finished, by decide⟩, ⟨{ unit 1 1 1 with phase := .fault, faultKind := .ioFailure }, by decide⟩,
   ⟨State.reset, by decide⟩⟩

theorem test_wit_HostCommandFrame :
    (∃ s t : State, exec .palLoad s = .next t) ∧ (∃ s t : State, exec .start s = .next t) ∧
    (∃ s t : State, exec .ack s = .next t) :=
  ⟨⟨State.reset, _, rfl⟩, ⟨unit 1 1 1, _, rfl⟩, ⟨finished, _, rfl⟩⟩

theorem test_wit_FillInitialisesEveryPixel : ∃ s : State, s.script = [] ∧ s.phase = .fill ∧ 0 < s.N :=
  ⟨filling, by decide⟩

theorem test_wit_FlipReversesRowsWhenNotFlipped :
    (∃ s : State, s.script = [] ∧ s.phase = .flip ∧ s.desc.isFlipped = 0#32) ∧
    (∃ s : State, s.script = [] ∧ s.phase = .flip ∧ s.desc.isFlipped ≠ 0#32) :=
  ⟨⟨flipping, by decide⟩,
   ⟨{ flipping with desc := { flipping.desc with isFlipped := 0x80000000#32 } }, by decide⟩⟩

theorem test_wit_RowReversalIsAnInvolution :
    (∃ w h i : Nat, i < w * h ∧ h = 1) ∧ (∃ w h i : Nat, i < w * h ∧ 2 * (i / w) + 1 = h ∧ h = 3) :=
  ⟨⟨2, 1, 1, by decide⟩, ⟨2, 3, 3, by decide⟩⟩

theorem test_wit_HandoffIsTheWholeFrame :
    (∃ s : State, s.Inv ∧ s.phase = .done) ∧ (∃ s : State, s.Inv ∧ s.phase ≠ .done) :=
  ⟨⟨finished, test_inv_finished, by decide⟩, ⟨filled, test_inv_filled, by decide⟩⟩

theorem test_wit_ReservedRegistersReadZero :
    (∃ (s : State) (v : Word) (ops : List HostOp), s.script = .regWrite 5 v :: ops) ∧
    (∃ (s : State) (n : Nat) (v : Word) (ops : List HostOp), s.script = .regWrite n v :: ops ∧ 20 ≤ n) :=
  ⟨⟨doing (.regWrite 5 1#32) State.reset, 1#32, [], by decide⟩,
   ⟨doing (.regWrite 20 1#32) State.reset, 20, 1#32, [], by decide⟩⟩

theorem test_wit_RegisterMapReads : ∃ s : State, s.pos < 2 ^ 64 ∧ 2 ^ 32 ≤ s.pos :=
  ⟨at_ (2 ^ 64 - 1) State.reset, by decide⟩

theorem test_wit_HostReadsHaveNoSideEffect :
    (∃ (s : State) (n : Nat) (ops : List HostOp), s.script = .regRead n :: ops) ∧
    (∃ (s : State) (n : Nat) (ops : List HostOp) (w : PixelWord), s.script = .pixRead n :: ops ∧ s.phase = .done ∧
      n < s.N ∧ s.pix.read n = some w) ∧
    (∃ (s : State) (n : Nat) (ops : List HostOp), s.script = .pixRead n :: ops ∧ s.phase ≠ .done) ∧
    (∃ (s : State) (n : Nat) (ops : List HostOp), s.script = .pixRead n :: ops ∧ s.N ≤ n) :=
  ⟨⟨doing (.regRead 19) State.reset, 19, [], by decide⟩,
   ⟨doing (.pixRead 1) finished, 1, [], 0x0000FFFF#32, by decide⟩, ⟨doing (.pixRead 0) State.reset, 0, [], by decide⟩,
   ⟨doing (.pixRead 2) finished, 2, [], by decide⟩⟩

theorem test_wit_RegisterWritesFollowTheState :
    (∃ (s : State) (v : Word) (ops : List HostOp), s.script = .regWrite 15 v :: ops ∧ s.phase = .idle) ∧
    (∃ (s : State) (v : Word) (ops : List HostOp), s.script = .regWrite 3 v :: ops ∧ s.phase ≠ .idle) ∧
    (∃ (s : State) (v : Word) (ops : List HostOp), s.script = .regWrite 19 v :: ops) :=
  ⟨⟨doing (.regWrite 15 7#32) State.reset, 7#32, [], by decide⟩,
   ⟨doing (.regWrite 3 7#32) finished, 7#32, [], by decide⟩,
   ⟨doing (.regWrite 19 7#32) State.reset, 7#32, [], by decide⟩⟩

theorem test_wit_UnknownCommandIsRefused :
    ∃ (s : State) (v : Word) (ops : List HostOp), s.script = .regWrite 0 v :: ops ∧ v ≠ 1#32 ∧ v ≠ 2#32 ∧ v ≠ 3#32 :=
  ⟨doing (.regWrite 0 4#32) State.reset, 4#32, [], by decide⟩

theorem test_wit_RefusedWriteOnlySetsTheReason :
    ∃ (s t : State) (n : Nat) (v : Word) (ops : List HostOp), s.script = .regWrite n v :: ops ∧ step s = .next t ∧
      t.refusal ≠ .none :=
  ⟨doing (.regWrite 0 2#32) State.reset, _, 0, 2#32, [], by decide, rfl, by decide⟩

theorem test_wit_HostQueuesTokensInOrder :
    (∃ (s : State) (tok : Token) (ops : List HostOp), s.script = .push tok :: ops) ∧
    (∃ (s : State) (ops : List HostOp), s.script = .discard :: ops) ∧
    (∃ (s : State) (ops : List HostOp), s.script = .await :: ops ∧ s.phase = .fault) ∧
    (∃ (s : State) (ops : List HostOp), s.script = .await :: ops ∧ s.phase ≠ .idle ∧ s.phase ≠ .done ∧
      s.phase ≠ .fault) :=
  ⟨⟨doing (.push .eos) State.reset, .eos, [], by decide⟩, ⟨doing .discard State.reset, [], by decide⟩,
   ⟨doing .await { unit 1 1 1 with phase := .fault, faultKind := .ioFailure }, [], by decide⟩,
   ⟨doing .await filled, [], by decide⟩⟩

theorem test_wit_BlockRestsWhereItHasNoStep :
    (∃ s : State, s.script = [] ∧ s.phase = .done) ∧ (∃ s : State, s.script = [] ∧ s.q = [] ∧ s.phase = .palload) ∧
    (∃ s : State, s.script = [] ∧ s.q = [] ∧ s.phase = .decode ∧ s.consumed < s.len) :=
  ⟨⟨finished, by decide⟩, ⟨loading 768 [], by decide⟩, ⟨decoding 4 1 2 [], by decide⟩⟩

theorem test_wit_ResetEventSetsTheRegisters :
    ∃ (s : State) (ops : List HostOp), s.script = .reset :: ops ∧ s.phase = .decode ∧ s.palValid = true :=
  ⟨doing .reset filled, [], by decide⟩

theorem test_wit_StepKeepsTheInvariant :
    (∃ s t : State, s.Inv ∧ step s = .next t) ∧ (∃ s t : State, s.Inv ∧ step s = .next t ∧ t.phase = .done) :=
  ⟨⟨filled, _, test_inv_filled, rfl⟩, ⟨flipping, _, test_inv_flipping, rfl, by decide⟩⟩

theorem test_wit_InvariantStatesAlwaysStep : ∃ s : State, s.Inv := ⟨finished, test_inv_finished⟩

theorem test_wit_PhaseTransitionsAreExactly :
    ∃ s t : State, step s = .next t ∧ s.script.head? ≠ some .reset ∧ t.phase ≠ s.phase :=
  ⟨filling, _, rfl, by decide, by decide⟩

theorem test_wit_DescriptorIsFrozenOutsideIdle :
    ∃ s t : State, step s = .next t ∧ s.phase ≠ .idle ∧ s.script.head? ≠ some .reset :=
  ⟨doing (.regWrite 9 1#32) filled, _, rfl, by decide, by decide⟩

theorem test_wit_OutputIsImmutableInDone :
    ∃ s t : State, step s = .next t ∧ s.phase = .done ∧ s.script.head? ≠ some .reset ∧
      s.script.head? ≠ some (.regWrite 0 3#32) :=
  ⟨doing (.regWrite 0 2#32) finished, _, rfl, by decide, by decide, by decide⟩

/-- Two states that differ in staged bytes, which have no meaning outside `PALLOAD`. -/
theorem test_wit_UnspecifiedContentIsNeverRead :
    ∃ s u : State, s.Inv ∧ u.Inv ∧ s.determined = u.determined ∧ s.pcnt ≠ u.pcnt := by
  refine ⟨unit 2 1 3, { unit 2 1 3 with pcnt := 769 }, test_inv_unit, ?_, ?_, by decide⟩
  · constructor <;> simp [unit, State.reset, Config.resetParams, Memory.wf, Phase.inFrame, Phase.hasPixels]
  · simp [State.determined, unit, Phase.hasPixels]

/-- Scenario S2 at its start; for `FrameEndsWithinLengthPlusThree` too. -/
theorem test_wit_BlockComputesTheFrameFunction : ∃ s : State, s.Inv ∧ s.phase = .fill ∧ s.script = [] :=
  ⟨filling, test_inv_filling, by decide, by decide⟩

theorem test_wit_EncodedImageDecodesBack :
    ∃ (f : Frame) (rows : List Row), 1 ≤ f.width.toNat ∧ f.isFlipped ≠ 0#32 ∧ rows.length = f.height.toNat ∧
      (∀ r ∈ rows, r.length = f.width.toNat) ∧ (encodeImage rows).length = f.length.toNat :=
  ⟨{ emptyLit := .fault, pal := State.reset.pal, fill := 0#32, isFlipped := 1#32, width := 2#32, height := 2#32,
     length := 5#32 }, [[none, some 7#8], [none, none]], by decide⟩

theorem test_wit_UnitsStepIndependently :
    ∃ (p p' : Platform) (s t : State), p.stepUnit 1 = .next p' ∧ p.units[1]? = some s ∧ step s = .next t :=
  ⟨{ units := [State.reset, filling] }, _, filling, _, rfl, rfl, rfl⟩

/-- A byte source with the six header words of an empty file: 6, 1, 0, any, 1 direction, 0 frames. -/
def header (w0 : Byte) : Source :=
  { bytes := [w0, 0#8, 0#8, 0#8, 1#8, 0#8, 0#8, 0#8, 0#8, 0#8, 0#8, 0#8, 0xEE#8, 0xEE#8, 0xEE#8, 0xEE#8,
              1#8, 0#8, 0#8, 0#8, 0#8, 0#8, 0#8, 0#8]
    failsFrom := none }

theorem test_wit_ContainerHeaderIsSixOneZero :
    (header 6#8).words 0 6 = .ok [6#32, 1#32, 0#32, 0xEEEEEEEE#32, 1#32, 0#32] ∧
    (header 5#8).words 0 6 = .ok [5#32, 1#32, 0#32, 0xEEEEEEEE#32, 1#32, 0#32] := by decide

theorem test_wit_WordsAreLittleEndian :
    ∃ (src : Source) (o : Nat) (b0 b1 b2 b3 : Byte), src.failsFrom = none ∧ src.bytes[o]? = some b0 ∧
      src.bytes[o + 1]? = some b1 ∧ src.bytes[o + 2]? = some b2 ∧ src.bytes[o + 3]? = some b3 :=
  ⟨header 6#8, 0, 6#8, 0#8, 0#8, 0#8, by decide⟩

/-- A file of one frame header and some stream bytes. -/
def frameFile (n : Nat) : Source := { bytes := List.replicate (32 + n) 0x80#8, failsFrom := none }

theorem test_wit_FrameTokensEndWithTheSource :
    (∃ (src : Source) (o : Nat) (d : Descriptor), src.failsFrom = none ∧
      o + 32 + d.length.toNat ≤ src.bytes.length ∧ d.length = 3#32) ∧
    (∃ (src : Source) (o : Nat) (d : Descriptor), src.failsFrom = none ∧
      ¬ o + 32 + d.length.toNat ≤ src.bytes.length ∧ d.length = 0#32) ∧
    (∃ (src : Source) (o : Nat) (d : Descriptor), src.failsFrom = none ∧
      ¬ o + 32 + d.length.toNat ≤ src.bytes.length ∧ d.length ≠ 0#32) :=
  ⟨⟨frameFile 3, 0, (unit 1 1 3).desc, by decide⟩, ⟨frameFile 3, 4, (unit 1 1 0).desc, by decide⟩,
   ⟨frameFile 2, 0, (unit 1 1 3).desc, by decide⟩⟩

/-- A read that fails before the last byte, a read that would fail only behind it, and no failing read. -/
theorem test_wit_PaletteResourceStartsOrEndsTheRun :
    (∃ (src : Source) (k : Nat), src.failsFrom = some k ∧ k < src.bytes.length ∧ k + 1 = src.bytes.length) ∧
    (∃ src : Source, (∀ k, src.failsFrom = some k → src.bytes.length ≤ k) ∧ src.failsFrom = some src.bytes.length ∧
      src.bytes.length ≠ 768) ∧
    (∃ src : Source, (∀ k, src.failsFrom = some k → src.bytes.length ≤ k) ∧ src.bytes.length = 768) :=
  ⟨⟨{ bytes := [1#8, 2#8], failsFrom := some 1 }, 1, by decide⟩,
   ⟨{ bytes := [1#8], failsFrom := some 1 }, by simp⟩,
   ⟨{ bytes := List.replicate 768 0#8, failsFrom := none }, ⟨(fun _ h => by cases h), List.length_replicate⟩⟩⟩

/-- 43_host_formats.md R139: the host's own faults, and the operations of a resource it can read. -/
theorem test_palette_operations :
    paletteOperations .unmeasurable = .error .invalidPaletteSize ∧
    paletteOperations (.measured { bytes := [1#8, 2#8], failsFrom := some 0 }) = .error .ioFailure ∧
    paletteOperations (.measured { bytes := [7#8], failsFrom := none }) =
      .ok [.regWrite 0 1#32, .push (.byte 7#8), .push .eos, .await] := ⟨rfl, rfl, rfl⟩

end Sys2Proof.Tests
end

/-! PROOFS. The row commands with a zero width (00_scope.md R12, 42_frame_control.md R116): the branch of each meaning
that the model's own stop closes (log 9). -/

namespace Sys2Proof.Machine

theorem execEol_zeroWidth {s : State} (hw : s.W = 0) : execEol s = .fault .zeroWidth :=
  if_pos hw

/-- `EMPTY_LIT` picks the branch, and that branch tests the width before the cursor. -/
theorem execLit0_zeroWidth {s : State} (hw : s.W = 0) (he : s.params.emptyLit = .decrement) :
    execLit0 s = .fault .zeroWidth := by
  simp only [execLit0, he, if_pos hw]

/-- Settles O11: each of the two meanings tests the width before it divides by it. -/
theorem zeroWidthStopsTheRowCommands : Obligations.ZeroWidthStopsTheRowCommands := by
  intro s hw
  constructor
  · rw [exec_eol, execEol_zeroWidth hw]
  · intro he
    rw [exec_lit0, execLit0_zeroWidth hw he]

end Sys2Proof.Machine

/-! PROOFS. Progress: where the width is positive in DECODE (42_frame_control.md R116) and the words below `N` are
written in `DONE` (20_memory.md R53), every operation answers a next state; the model's two stops are ruled out. -/

namespace Sys2Proof.Machine

theorem takeToken_next {s : State} {k : Token → State → Result}
    (hk : ∀ tok rest, ∃ t, k tok { s with q := rest } = .next t) : ∃ t, takeToken s k = .next t := by
  cases hq : s.q with
  | nil => exact ⟨s, takeToken_nil hq⟩
  | cons tok rest => rw [takeToken_cons hq]; exact hk tok rest

theorem fetchStreamByte_next {s : State} {k : Byte → State → Result}
    (hk : ∀ b rest c, ∃ t, k b { s with q := rest, consumed := c } = .next t) :
    ∃ t, fetchStreamByte s k = .next t := by
  refine takeToken_next fun tok rest => ?_
  cases tok with
  | byte b => exact hk b rest _
  | eos => exact ⟨_, rfl⟩
  | err => exact ⟨_, rfl⟩

theorem execLit0_next {s : State} (hw : s.W ≠ 0) : ∃ t, execLit0 s = .next t := by
  unfold execLit0
  split
  · exact ⟨_, rfl⟩
  · exact ⟨_, rfl⟩
  · rw [if_neg hw]
    split
    · split <;> exact ⟨_, rfl⟩
    · exact ⟨_, rfl⟩

/-- A control byte's meaning stops the model only where it divides by a zero width. -/
theorem execControl_next {s : State} (hw : s.W ≠ 0) (b : Byte) : ∃ t, exec (decodeControl b) s = .next t := by
  rcases decodeControl_cases b with h | h | h | h <;> rw [h]
  · exact ⟨_, if_neg hw⟩
  · exact ⟨_, rfl⟩
  · exact execLit0_next hw
  · exact ⟨_, rfl⟩

theorem writeLiteral_next (idx : Byte) (s : State) : ∃ t, writeLiteral idx s = .next t := by
  unfold writeLiteral
  split <;> exact ⟨_, rfl⟩

theorem decodeStep_next {s : State} (hw : s.W ≠ 0) : ∃ t, decodeStep s = .next t := by
  unfold decodeStep
  split
  · split
    · exact ⟨_, rfl⟩
    · exact fetchStreamByte_next fun b _ _ => execControl_next (by exact hw) b
  · unfold payloadStep
    split
    · exact ⟨_, rfl⟩
    · exact fetchStreamByte_next fun b _ _ => writeLiteral_next b _

theorem palloadStep_next (s : State) : ∃ t, palloadStep s = .next t := by
  refine takeToken_next fun tok rest => ?_
  cases tok with
  | byte b => exact ⟨_, rfl⟩
  | eos =>
    simp only [endOfBlob]
    split <;> exact ⟨_, rfl⟩
  | err => exact ⟨_, rfl⟩

theorem blockStep_next {s : State} (hw : s.phase = .decode → s.W ≠ 0) : ∃ t, blockStep s = .next t := by
  cases hp : s.phase <;> simp only [blockStep, hp]
  case palload => exact palloadStep_next s
  case decode => exact decodeStep_next (hw hp)
  all_goals exact ⟨_, rfl⟩

theorem commandWrite_next (v : Word) (s : State) : ∃ t, commandWrite v s = .next t := by
  unfold commandWrite
  split
  · next i hi =>
    rcases decodeCommand_cases hi with ⟨-, rfl⟩ | ⟨-, rfl⟩ | ⟨-, rfl⟩
    · simp only [exec_palLoad, execPalLoad]
      split_ifs <;> exact ⟨_, rfl⟩
    · simp only [exec_start, execStart]
      split_ifs <;> exact ⟨_, rfl⟩
    · simp only [exec_ack, execAck]
      split_ifs <;> exact ⟨_, rfl⟩
  · exact ⟨_, rfl⟩

theorem regWrite_next (n : Nat) (v : Word) (s : State) : ∃ t, regWrite n v s = .next t := by
  unfold regWrite
  split_ifs <;> exact ⟨_, rfl⟩

/-- A pixel read stops the model only at a word below `N` that was never written. -/
theorem pixRead_next {s : State} (hpix : s.phase = .done → ∀ i, i < s.N → (s.pix.read i).isSome = true) (i : Nat) :
    ∃ t, pixRead i s = .next t := by
  unfold pixRead
  split
  · next h =>
    obtain ⟨hdone, hi⟩ := h
    obtain ⟨w, hword⟩ := Option.isSome_iff_exists.1 (hpix hdone i hi)
    simp only [hword]
    exact ⟨_, rfl⟩
  · exact ⟨_, rfl⟩

theorem hostOperation_next {s : State} (hw : s.phase = .decode → s.W ≠ 0)
    (hpix : s.phase = .done → ∀ i, i < s.N → (s.pix.read i).isSome = true) (op : HostOp) :
    ∃ t, hostOperation op s = .next t := by
  cases op with
  | regWrite n v =>
    simp only [hostOperation]
    split
    · exact commandWrite_next v s
    · exact regWrite_next n v s
  | pixRead i => exact pixRead_next hpix i
  | letBlock => exact blockStep_next hw
  | regRead | push | discard | reset | await => exact ⟨_, rfl⟩

/-- A state that meets the invariant steps: in DECODE the frame has a width, and in `DONE` every word below `N` is
written. -/
theorem State.Inv.steps {s : State} (h : s.Inv) : s.Steps := by
  have hw : s.phase = .decode → s.W ≠ 0 := by
    intro hp
    obtain ⟨-, hW, -⟩ := h.framed (by rw [hp]; rfl)
    exact Nat.one_le_iff_ne_zero.1 hW
  have hpix : s.phase = .done → ∀ i, i < s.N → (s.pix.read i).isSome = true :=
    fun hp i => (h.filled (by rw [hp]; rfl) i).2
  unfold State.Steps step agentStep
  split
  · exact blockStep_next hw
  · split
    · exact blockStep_next hw
    · exact hostOperation_next (by exact hw) (by exact hpix) _

end Sys2Proof.Machine

/-! PROOFS. What the spec leaves unspecified is never read (10_state.md R39, R40, R43, R44): every operation, run on a
state with its unspecified content erased, answers the same as on the state itself, up to unspecified content. -/

namespace Sys2Proof.Machine

/-! ### The erased state -/

@[simp] theorem State.determined_phase (s : State) : s.determined.phase = s.phase := rfl
@[simp] theorem State.determined_palValid (s : State) : s.determined.palValid = s.palValid := rfl
@[simp] theorem State.determined_params (s : State) : s.determined.params = s.params := rfl
@[simp] theorem State.determined_script (s : State) : s.determined.script = s.script := rfl

theorem State.determined_pal {s : State} (h : s.palValid = true) : s.determined.pal = s.pal := if_pos h
theorem State.determined_pix {s : State} (h : s.phase.hasPixels = true) : s.determined.pix = s.pix := if_pos h
theorem State.determined_pcnt {s : State} (h : s.phase = .palload) : s.determined.pcnt = s.pcnt := if_pos h
theorem State.determined_pstage {s : State} (h : s.phase = .palload) :
    s.determined.pstage = takenBytes s.pcnt s.pstage := if_pos h

theorem takenBytes_get (k : Nat) (stage : Staging) (i : Nat) (h : i < 768) :
    (takenBytes k stage)[i] = if i < k then stage[i] else 0#8 := by
  simp [takenBytes]

/-- Two stages that agree on the bytes taken are erased to the same stage. -/
theorem takenBytes_congr {k : Nat} {a b : Staging} (h : ∀ (i : Nat) (hi : i < 768), i < k → a[i] = b[i]) :
    takenBytes k a = takenBytes k b := by
  refine Vector.ext fun i hi => ?_
  rw [takenBytes_get, takenBytes_get]
  split
  · next hk => exact h i hi hk
  · rfl

@[simp] theorem takenBytes_takenBytes (k : Nat) (stage : Staging) :
    takenBytes k (takenBytes k stage) = takenBytes k stage :=
  takenBytes_congr fun i hi hk => by rw [takenBytes_get, if_pos hk]

/-- Once all 768 bytes are taken, nothing of the stage is erased. -/
theorem takenBytes_all (stage : Staging) : takenBytes 768 stage = stage := by
  refine Vector.ext fun i hi => ?_
  rw [takenBytes_get, if_pos hi]

/-- Two states differ only in unspecified content when they agree on every other field and, where it has a meaning, on
the palette, on the staged bytes and on the pixels. -/
theorem State.determined_congr {s t : State}
    (hrest : s = { t with pal := s.pal, pcnt := s.pcnt, pstage := s.pstage, pix := s.pix, freeCount := s.freeCount })
    (hpal : t.palValid = true → s.pal = t.pal)
    (hstage : t.phase = .palload → s.pcnt = t.pcnt ∧ takenBytes s.pcnt s.pstage = takenBytes t.pcnt t.pstage)
    (hpix : t.phase.hasPixels = true → s.pix = t.pix) : s.determined = t.determined := by
  rw [hrest]
  simp only [State.determined, State.mk.injEq, true_and, and_true]
  exact ⟨ite_congr rfl hpal fun _ => rfl, ite_congr rfl hpix fun _ => rfl,
    ite_congr rfl (fun h => (hstage h).1) fun _ => rfl, ite_congr rfl (fun h => (hstage h).2) fun _ => rfl⟩

/-- Erasing the stage keeps `PCNT` and the bytes already taken. -/
theorem State.determined_stage {s : State} (h : s.phase = .palload) : s.determined.pcnt = s.pcnt ∧
    takenBytes s.determined.pcnt s.determined.pstage = takenBytes s.pcnt s.pstage := by
  rw [State.determined_pcnt h, State.determined_pstage h, takenBytes_takenBytes]
  exact ⟨rfl, rfl⟩

@[simp] theorem State.determined_determined (s : State) : s.determined.determined = s.determined :=
  State.determined_congr rfl State.determined_pal State.determined_stage State.determined_pix

/-! ### The erased outcome -/

/-- An outcome with the unspecified content of its next state erased. -/
def erased : Result → Result
  | .next t => .next t.determined
  | .fault r => .fault r
  | .refused r => .refused r

@[simp] theorem erased_next (t : State) : erased (.next t) = .next t.determined := rfl

/-- An update that commutes with erasing answers the same from the erased state. -/
theorem erased_next_determined (t : State) : erased (.next t.determined) = erased (.next t) := by simp

theorem erased_next_congr {s t : State} (h : s.determined = t.determined) : erased (.next s) = erased (.next t) :=
  congrArg Host.Outcome.next h

/-- A check on determined content takes the same branch from the erased state. -/
theorem erased_ite {p : Prop} {i j : Decidable p} {a b c d : Result} (hthen : p → erased a = erased c)
    (helse : ¬p → erased b = erased d) : erased (@ite _ p i a b) = erased (@ite _ p j c d) := by
  by_cases h : p
  · rw [if_pos h, if_pos h]; exact hthen h
  · rw [if_neg h, if_neg h]; exact helse h

theorem erased_faulted (s : State) (k : FaultKind) :
    erased (.next (s.determined.faulted k)) = erased (.next (s.faulted k)) :=
  erased_next_congr (State.determined_congr rfl State.determined_pal nofun nofun)

/-- An outcome that looks like a next state is a next state. -/
theorem determined_of_erased_eq {t : State} {r : Result} (h : erased r = erased (.next t)) :
    ∃ t', r = .next t' ∧ t'.determined = t.determined := by
  cases r with
  | next t' => exact ⟨t', rfl, Host.Outcome.next.inj h⟩
  | fault r => cases h
  | refused r => cases h

/-! ### The input port -/

theorem erased_takeToken {s : State} {k : Token → State → Result}
    (hk : ∀ tok u, u.phase = s.phase → erased (k tok u.determined) = erased (k tok u)) :
    erased (takeToken s.determined k) = erased (takeToken s k) := by
  cases hq : s.q with
  | nil => rw [takeToken_nil hq, takeToken_nil (s := s.determined) hq, erased_next_determined]
  | cons tok rest =>
    rw [takeToken_cons hq, takeToken_cons (s := s.determined) hq]
    exact hk tok { s with q := rest } rfl

theorem erased_fetchStreamByte {s : State} {k : Byte → State → Result}
    (hk : ∀ b u, u.palValid = s.palValid → erased (k b u.determined) = erased (k b u)) :
    erased (fetchStreamByte s.determined k) = erased (fetchStreamByte s k) := by
  cases hq : s.q with
  | nil => rw [fetchStreamByte_nil hq, fetchStreamByte_nil (s := s.determined) hq, erased_next_determined]
  | cons tok rest =>
    cases tok with
    | byte b =>
      rw [fetchStreamByte_byte hq, fetchStreamByte_byte (s := s.determined) hq]
      exact hk b { s with q := rest, consumed := s.consumed + 1#32 } rfl
    | eos =>
      rw [fetchStreamByte_eos hq, fetchStreamByte_eos (s := s.determined) hq]
      exact erased_faulted { s with q := rest } .truncatedRun
    | err =>
      rw [fetchStreamByte_err hq, fetchStreamByte_err (s := s.determined) hq]
      exact erased_faulted { s with q := rest } .ioFailure

/-! ### Phase PALLOAD -/

theorem erased_failLoad (k : FaultKind) (s : State) : erased (failLoad k s.determined) = erased (failLoad k s) :=
  erased_next_congr (State.determined_congr rfl nofun nofun nofun)

/-- A blob byte goes behind the bytes already taken, so what lies beyond them stays unread. -/
theorem erased_stageByte {s : State} (h : s.phase = .palload) (b : Byte) :
    erased (.next (stageByte b s.determined)) = erased (.next (stageByte b s)) := by
  have hcnt := State.determined_pcnt h
  have hcnt' : (stageByte b s.determined).pcnt = (stageByte b s).pcnt := by rw [stageByte_pcnt, stageByte_pcnt, hcnt]
  refine erased_next_congr (State.determined_congr rfl State.determined_pal (fun _ => ⟨hcnt', ?_⟩) State.determined_pix)
  rw [hcnt']
  refine takenBytes_congr fun i hi hk => ?_
  rw [stageByte_get b s.determined i hi, stageByte_get b s i hi, hcnt]
  split
  · rfl
  · next hne =>
    have hlt : i < s.pcnt := by rw [stageByte_pcnt] at hk; split at hk <;> omega
    simp only [State.determined_pstage h, takenBytes_get, if_pos hlt]

/-- The size check sees `PCNT`, and only a whole blob is committed, of which every byte was taken. -/
theorem erased_endOfBlob {s : State} (h : s.phase = .palload) :
    erased (endOfBlob s.determined) = erased (endOfBlob s) := by
  unfold endOfBlob
  rw [State.determined_pcnt h]
  refine erased_ite (fun _ => erased_failLoad _ s) fun hcnt => ?_
  have hall : s.determined.pstage = s.pstage := by
    rw [State.determined_pstage h, not_not.1 hcnt, takenBytes_all]
  exact erased_next_congr (State.determined_congr rfl (fun _ => congrArg commitPalette hall) nofun nofun)

theorem erased_palloadStep {s : State} (h : s.phase = .palload) :
    erased (palloadStep s.determined) = erased (palloadStep s) := by
  refine erased_takeToken fun tok u hu => ?_
  have hload : u.phase = .palload := hu.trans h
  cases tok with
  | byte b => exact erased_stageByte hload b
  | eos => exact erased_endOfBlob hload
  | err => exact erased_failLoad .ioFailure u

/-! ### Phases FILL, DECODE and FLIP -/

theorem erased_fillStep (s : State) : erased (fillStep s.determined) = erased (fillStep s) :=
  erased_next_congr (State.determined_congr rfl State.determined_pal nofun fun _ => rfl)

theorem erased_execEol (s : State) : erased (execEol s.determined) = erased (execEol s) :=
  erased_ite (fun _ => rfl) fun _ => erased_next_determined { s with pos := nextRow s.W s.pos }

theorem erased_execLit0 (s : State) : erased (execLit0 s.determined) = erased (execLit0 s) := by
  unfold execLit0
  rw [State.determined_params]
  split
  · exact erased_faulted s _
  · exact erased_next_determined s
  · refine erased_ite (fun _ => rfl) fun _ => erased_ite (fun _ => erased_ite (fun _ => ?_) fun _ => ?_) fun _ => ?_
    · exact erased_faulted s _
    · exact erased_next_determined { s with pos := s.pos - 1 }
    · exact erased_next_determined s

theorem erased_execControl (b : Byte) (s : State) :
    erased (exec (decodeControl b) s.determined) = erased (exec (decodeControl b) s) := by
  rcases decodeControl_cases b with h | h | h | h <;> rw [h]
  · exact erased_execEol s
  · exact erased_next_determined { s with pos := s.pos + (count b).toNat }
  · exact erased_execLit0 s
  · exact erased_next_determined { s with run := count b }

/-- The palette is read here, so it must be held; the pixel goes into a buffer that has a meaning or is erased. -/
theorem erased_writeLiteral {s : State} (h : s.palValid = true) (idx : Byte) :
    erased (writeLiteral idx s.determined) = erased (writeLiteral idx s) := by
  refine erased_ite (fun _ => erased_faulted s _) fun _ => ?_
  rw [State.determined_pal h]
  exact erased_next_congr (State.determined_congr rfl (fun _ => rfl) State.determined_stage
    fun hp => congrArg (Memory.write · s.pos (mapIndex s.pal idx)) (State.determined_pix hp))

theorem erased_payloadStep {s : State} (h : s.palValid = true) :
    erased (payloadStep s.determined) = erased (payloadStep s) :=
  erased_ite (fun _ => erased_faulted s _) fun _ =>
    erased_fetchStreamByte fun b _ hu => erased_writeLiteral (hu.trans h) b

theorem erased_exitStep {s : State} (hp : s.phase = .decode) : erased (exitStep s.determined) = erased (exitStep s) :=
  erased_next_congr (State.determined_congr rfl State.determined_pal nofun
    fun _ => State.determined_pix (by rw [hp]; rfl))

theorem erased_decodeStep {s : State} (hp : s.phase = .decode) (h : s.palValid = true) :
    erased (decodeStep s.determined) = erased (decodeStep s) := by
  refine erased_ite (fun _ => erased_ite (fun _ => ?_) fun _ => ?_) fun _ => ?_
  · exact erased_exitStep hp
  · exact erased_fetchStreamByte fun b u _ => erased_execControl b u
  · exact erased_payloadStep h

theorem erased_flipStep {s : State} (hp : s.phase = .flip) :
    erased (flipStep s.determined) = erased (flipStep s) := by
  have hpix : s.determined.pix = s.pix := State.determined_pix (by rw [hp]; rfl)
  have horient : orient s.determined = orient s := by
    unfold orient; rw [hpix]; rfl
  exact erased_next_congr (State.determined_congr rfl State.determined_pal nofun fun _ => horient)

theorem erased_blockStep {s : State} (h : s.phase = .decode → s.palValid = true) :
    erased (blockStep s.determined) = erased (blockStep s) := by
  cases hp : s.phase <;> simp only [blockStep, State.determined_phase, hp]
  case palload => exact erased_palloadStep hp
  case fill => exact erased_fillStep s
  case decode => exact erased_decodeStep hp (h hp)
  case flip => exact erased_flipStep hp
  all_goals exact erased_next_determined s

/-! ### The host -/

theorem erased_refuse (r : RefusalReason) (s : State) : erased (refuse r s.determined) = erased (refuse r s) :=
  erased_next_determined (s.refusedWith r)

/-- An accepted load starts with no byte taken, so every staged byte is unspecified. -/
theorem erased_execPalLoad (s : State) : erased (execPalLoad s.determined) = erased (execPalLoad s) :=
  erased_ite (fun _ => erased_refuse _ s) fun _ => erased_ite (fun _ => erased_refuse _ s) fun _ =>
    erased_next_congr (State.determined_congr rfl State.determined_pal (fun _ => ⟨rfl, takenBytes_congr nofun⟩) nofun)

theorem erased_execStart (s : State) : erased (execStart s.determined) = erased (execStart s) :=
  erased_ite (fun _ => erased_refuse _ s) fun _ => erased_ite (fun _ => erased_refuse _ s) fun _ =>
    erased_ite (fun _ => erased_refuse _ s) fun _ => erased_ite (fun _ => erased_refuse _ s) fun _ =>
      erased_next_congr (State.determined_congr rfl State.determined_pal nofun nofun)

theorem erased_execAck (s : State) : erased (execAck s.determined) = erased (execAck s) :=
  erased_ite (fun _ => erased_next_congr (State.determined_congr rfl State.determined_pal nofun nofun))
    fun _ => erased_refuse _ s

theorem erased_commandWrite (v : Word) (s : State) :
    erased (commandWrite v s.determined) = erased (commandWrite v s) := by
  unfold commandWrite
  split
  · next i hi =>
    rcases decodeCommand_cases hi with ⟨-, rfl⟩ | ⟨-, rfl⟩ | ⟨-, rfl⟩
    · exact erased_execPalLoad s
    · exact erased_execStart s
    · exact erased_execAck s
  · exact erased_refuse _ s

theorem State.setReg_determined (s : State) (n : Nat) (v : Word) :
    s.determined.setReg n v = (s.setReg n v).determined := by
  unfold State.setReg
  split <;> rfl

theorem erased_regWrite (n : Nat) (v : Word) (s : State) :
    erased (regWrite n v s.determined) = erased (regWrite n v s) := by
  unfold regWrite
  rw [State.setReg_determined]
  exact erased_ite (fun _ => erased_ite (fun _ => erased_next_determined (s.setReg n v).accepted)
    fun _ => erased_refuse _ s) fun _ => erased_refuse _ s

/-- The host sees pixels in `DONE` only, where they have a meaning. -/
theorem erased_pixRead (i : Nat) (s : State) : erased (pixRead i s.determined) = erased (pixRead i s) := by
  refine erased_ite (fun h => ?_) fun _ => erased_refuse .notReadable (s.answered .noPixel)
  obtain ⟨hdone : s.phase = .done, -⟩ := h
  rw [State.determined_pix (s := s) (by rw [hdone]; rfl)]
  cases s.pix.read i with
  | some w => exact erased_next_determined (s.answered (.pixel w))
  | none => rfl

/-- No register shows unspecified content. -/
theorem regRead_determined (s : State) (n : Nat) : regRead s.determined n = regRead s n := rfl

theorem erased_hostOperation {s : State} (h : s.phase = .decode → s.palValid = true) (op : HostOp) :
    erased (hostOperation op s.determined) = erased (hostOperation op s) := by
  cases op with
  | regRead n => exact erased_next_determined (s.answered (.reg (regRead s n)))
  | regWrite n v =>
    simp only [hostOperation]
    split
    · exact erased_commandWrite v s
    · exact erased_regWrite n v s
  | pixRead i => exact erased_pixRead i s
  | push tok => exact erased_next_determined { s with q := s.q ++ [tok] }
  | discard => exact erased_next_determined { s with q := [] }
  | reset => exact erased_next_congr (State.determined_congr rfl nofun nofun nofun)
  | letBlock => exact erased_blockStep h
  | await => exact erased_next_determined s

theorem erased_step {s : State} (h : s.phase = .decode → s.palValid = true) :
    erased (step s.determined) = erased (step s) := by
  unfold step agentStep
  rw [State.determined_script]
  split
  · exact erased_blockStep h
  · next op rest hs =>
    exact erased_ite (fun _ => erased_blockStep h) fun _ => erased_hostOperation (s := { s with script := rest }) h op

/-- Settles O52: both states step as the one state they are erased to. -/
theorem unspecifiedContentIsNeverRead : Obligations.UnspecifiedContentIsNeverRead := by
  intro s u hs hu heq
  have held : ∀ {x : State}, x.Inv → x.phase = .decode → x.palValid = true := by
    intro x hx hp
    obtain ⟨hv, -⟩ := hx.framed (by rw [hp]; rfl)
    exact hv
  obtain ⟨s', hs'⟩ := hs.steps
  have hsame : erased (step u) = erased (.next s') := calc
    erased (step u) = erased (step u.determined) := (erased_step (held hu)).symm
    _ = erased (step s.determined) := by rw [heq]
    _ = erased (step s) := erased_step (held hs)
    _ = erased (.next s') := by rw [hs']
  obtain ⟨u', hu', hdet⟩ := determined_of_erased_eq hsame
  exact ⟨s', u', hs', hu', hdet.symm⟩

end Sys2Proof.Machine

/-! PROOFS. What a block step writes, phase by phase (10_state.md R40, R41): the shape of the next state of a PALLOAD
and of a DECODE step, and from it the pixels, the transitions and the registers a step keeps. -/

namespace Sys2Proof.Machine

/-! ### The next state of a step, by its written fields -/

/-- A PALLOAD step fails the load, stays, or commits; every other field is as before. -/
theorem palloadStep_shape {s t : State} (h : palloadStep s = .next t) :
    (∃ k q pal free, t = State.faulted { s with q := q, palValid := false, pal := pal, freeCount := free } k) ∨
    (∃ q pcnt stage, t = { s with q := q, pcnt := pcnt, pstage := stage }) ∨
    (∃ q pal, t = { s with q := q, pal := pal, palValid := true, phase := .idle }) := by
  rcases palloadStep_cases h with ⟨-, rfl⟩ | ⟨rest, -, h⟩ | ⟨b, rest, -, rfl⟩ | ⟨rest, -, h⟩
  · exact .inr (.inl ⟨_, _, _, rfl⟩)
  · rw [failLoad_eq] at h; cases h; exact .inl ⟨_, _, _, _, rfl⟩
  · exact .inr (.inl ⟨_, _, _, rfl⟩)
  · rcases endOfBlob_cases h with ⟨-, h⟩ | ⟨-, rfl⟩
    · rw [failLoad_eq] at h; cases h; exact .inl ⟨_, _, _, _, rfl⟩
    · exact .inr (.inr ⟨_, _, rfl⟩)

/-- A control byte's meaning raises its fault or moves the cursor and sets the run counter. -/
theorem execControl_shape {b : Byte} {s t : State} (h : exec (decodeControl b) s = .next t) :
    t = s.faulted .reservedCommand ∨ ∃ pos run, t = { s with pos := pos, run := run } := by
  rcases decodeControl_cases b with hb | hb | hb | hb <;> rw [hb] at h
  · obtain ⟨-, rfl⟩ := execEol_cases h; exact .inr ⟨_, _, rfl⟩
  · obtain rfl := execSkip_cases h; exact .inr ⟨_, _, rfl⟩
  · rcases execLit0_cases h with rfl | rfl | ⟨-, -, -, -, rfl⟩
    · exact .inl rfl
    · exact .inr ⟨_, _, rfl⟩
    · exact .inr ⟨_, _, rfl⟩
  · obtain rfl := execLit_cases h; exact .inr ⟨_, _, rfl⟩

/-- A DECODE step faults, ends the decode, moves the cursor and the counters, or, within a literal run, also writes the
word at the cursor. -/
theorem decodeStep_shape {s t : State} (h : decodeStep s = .next t) :
    (∃ k q consumed, t = State.faulted { s with q := q, consumed := consumed } k) ∨
    t = { s with phase := .flip } ∨
    (∃ q consumed pos run, t = { s with q := q, consumed := consumed, pos := pos, run := run }) ∨
    (s.run ≠ 0#7 ∧ ∃ q consumed pos run w,
      t = { s with q := q, consumed := consumed, pos := pos, run := run, pix := s.pix.write s.pos w }) := by
  rcases decodeStep_cases h with ⟨-, -, rfl⟩ | ⟨-, -, h⟩ | ⟨hrun, h⟩
  · exact .inr (.inl rfl)
  · rcases fetchStreamByte_cases h with ⟨-, rfl⟩ | ⟨rest, -, rfl⟩ | ⟨rest, -, rfl⟩ | ⟨b, rest, -, h⟩
    · exact .inr (.inr (.inl ⟨_, _, _, _, rfl⟩))
    · exact .inl ⟨_, _, _, rfl⟩
    · exact .inl ⟨_, _, _, rfl⟩
    · rcases execControl_shape h with rfl | ⟨pos, run, rfl⟩
      · exact .inl ⟨_, _, _, rfl⟩
      · exact .inr (.inr (.inl ⟨_, _, _, _, rfl⟩))
  · rcases payloadStep_cases h with ⟨-, rfl⟩ | ⟨-, h⟩
    · exact .inl ⟨_, _, _, rfl⟩
    · rcases fetchStreamByte_cases h with ⟨-, rfl⟩ | ⟨rest, -, rfl⟩ | ⟨rest, -, rfl⟩ | ⟨b, rest, -, h⟩
      · exact .inr (.inr (.inl ⟨_, _, _, _, rfl⟩))
      · exact .inl ⟨_, _, _, rfl⟩
      · exact .inl ⟨_, _, _, rfl⟩
      · rcases writeLiteral_cases h with ⟨-, rfl⟩ | ⟨-, rfl⟩
        · exact .inl ⟨_, _, _, rfl⟩
        · exact .inr (.inr (.inr ⟨hrun, _, _, _, _, _, rfl⟩))

/-! ### The pixels (10_state.md R40) -/

theorem decodeStep_pix {s t : State} (h : decodeStep s = .next t) (ht : t.phase ≠ .fault) {i : Nat}
    (hi : i ≠ s.pos ∨ s.run = 0#7) : t.pix.read i = s.pix.read i := by
  rcases decodeStep_shape h with ⟨k, q, c, rfl⟩ | rfl | ⟨q, c, pos, run, rfl⟩ | ⟨hrun, q, c, pos, run, w, rfl⟩
  · exact absurd rfl ht
  · rfl
  · rfl
  · exact Memory.read_write_other _ _ (hi.resolve_right hrun).symm

theorem palloadStep_pix {s t : State} (h : palloadStep s = .next t) (ht : t.phase ≠ .fault) : t.pix = s.pix := by
  rcases palloadStep_shape h with ⟨k, q, pal, free, rfl⟩ | ⟨q, pcnt, stage, rfl⟩ | ⟨q, pal, rfl⟩
  · exact absurd rfl ht
  · rfl
  · rfl

/-- Settles O20: a DECODE step writes at the cursor or not at all, the other three phases write no pixel. -/
theorem blockWritesPixelsOnlyAtTheCursor : Obligations.BlockWritesPixelsOnlyAtTheCursor := by
  intro s t h ht
  constructor
  · intro hp i hi
    rw [blockStep_decode hp] at h
    exact decodeStep_pix h ht hi
  · rintro (hp | hp | hp) i
    · rw [blockStep_palload hp] at h
      rw [palloadStep_pix h ht]
    all_goals
      simp only [blockStep, hp] at h
      cases h; rfl

/-! ### The phases (10_state.md R41) -/

theorem palloadStep_phase {s t : State} (h : palloadStep s = .next t) :
    t.phase = s.phase ∨ t.phase = .idle ∨ t.phase = .fault := by
  rcases palloadStep_shape h with ⟨k, q, pal, free, rfl⟩ | ⟨q, pcnt, stage, rfl⟩ | ⟨q, pal, rfl⟩
  · exact .inr (.inr rfl)
  · exact .inl rfl
  · exact .inr (.inl rfl)

theorem decodeStep_phase {s t : State} (h : decodeStep s = .next t) :
    t.phase = s.phase ∨ t.phase = .flip ∨ t.phase = .fault := by
  rcases decodeStep_shape h with ⟨k, q, c, rfl⟩ | rfl | ⟨q, c, pos, run, rfl⟩ | ⟨-, q, c, pos, run, w, rfl⟩
  · exact .inr (.inr rfl)
  · exact .inr (.inl rfl)
  · exact .inl rfl
  · exact .inl rfl

/-- The transitions the block takes by itself. -/
theorem blockStep_phase {s t : State} (h : blockStep s = .next t) (hne : t.phase ≠ s.phase) :
    (s.phase = .palload ∧ (t.phase = .idle ∨ t.phase = .fault)) ∨
    (s.phase = .fill ∧ t.phase = .decode) ∨
    (s.phase = .decode ∧ (t.phase = .flip ∨ t.phase = .fault)) ∨
    (s.phase = .flip ∧ t.phase = .done) := by
  rcases blockStep_cases h with ⟨-, rfl⟩ | ⟨hp, h⟩ | ⟨hp, rfl⟩ | ⟨hp, h⟩ | ⟨hp, rfl⟩
  · exact absurd rfl hne
  · exact .inl ⟨hp, (palloadStep_phase h).resolve_left hne⟩
  · exact .inr (.inl ⟨hp, rfl⟩)
  · exact .inr (.inr (.inl ⟨hp, (decodeStep_phase h).resolve_left hne⟩))
  · exact .inr (.inr (.inr ⟨hp, rfl⟩))

/-- The transitions a write to `CMD` causes. -/
theorem commandWrite_phase {v : Word} {s t : State} (h : commandWrite v s = .next t) (hne : t.phase ≠ s.phase) :
    (v = 1#32 ∧ s.phase = .idle ∧ t.phase = .palload) ∨
    (v = 2#32 ∧ s.phase = .idle ∧ t.phase = .fill) ∨
    (v = 3#32 ∧ (s.phase = .done ∨ s.phase = .fault) ∧ t.phase = .idle) := by
  rcases commandWrite_cases h with ⟨hv, h⟩ | ⟨hv, h⟩ | ⟨hv, h⟩ | rfl
  · rcases execPalLoad_cases h with ⟨r, -, rfl⟩ | ⟨hp, -, rfl⟩
    · exact absurd rfl hne
    · exact .inl ⟨hv, hp, rfl⟩
  · rcases execStart_cases h with ⟨r, -, rfl⟩ | ⟨hp, -, -, -, -, rfl⟩
    · exact absurd rfl hne
    · exact .inr (.inl ⟨hv, hp, rfl⟩)
  · rcases execAck_cases h with ⟨rfl, -, -⟩ | ⟨hp, rfl⟩
    · exact absurd rfl hne
    · exact .inr (.inr ⟨hv, hp, rfl⟩)
  · exact absurd rfl hne

theorem regWrite_phase {n : Nat} {v : Word} {s t : State} (h : regWrite n v s = .next t) : t.phase = s.phase := by
  rcases regWrite_cases h with ⟨r, -, rfl⟩ | ⟨-, -, rfl⟩
  · rfl
  · simp

theorem pixRead_phase {i : Nat} {s t : State} (h : pixRead i s = .next t) : t.phase = s.phase := by
  rcases pixRead_cases h with ⟨-, -, w, -, rfl⟩ | ⟨-, rfl⟩ <;> rfl

/-- A step that changes the phase is a reset, a command or a block step, whoever gave the block its turn. -/
theorem step_phase {s t : State} (h : step s = .next t) (hreset : s.script.head? ≠ some .reset)
    (hne : t.phase ≠ s.phase) :
    (∃ v ops, s.script = .regWrite 0 v :: ops ∧ commandWrite v { s with script := ops } = .next t) ∨
    (∃ ops, blockStep { s with script := ops } = .next t) := by
  rcases step_cases h with ⟨h, -⟩ | ⟨op, ops, hs, h⟩
  · exact .inr ⟨s.script, h⟩
  · rcases hostOperation_cases h with ⟨n, -, rfl⟩ | ⟨v, rfl, h⟩ | ⟨n, v, -, -, h⟩ | ⟨i, -, h⟩ | ⟨tok, -, rfl⟩ |
      ⟨-, rfl⟩ | ⟨rfl, -⟩ | ⟨-, h⟩ | ⟨-, rfl⟩
    · exact absurd rfl hne
    · exact .inl ⟨v, ops, hs, h⟩
    · exact absurd (regWrite_phase h) hne
    · exact absurd (pixRead_phase h) hne
    · exact absurd rfl hne
    · exact absurd rfl hne
    · exact absurd (by rw [hs]; rfl) hreset
    · exact .inr ⟨ops, h⟩
    · exact absurd rfl hne

/-- Settles O49: three transitions are a command's, the others the block's own. -/
theorem phaseTransitionsAreExactly : Obligations.PhaseTransitionsAreExactly := by
  intro s t h hreset hne
  rcases step_phase h hreset hne with ⟨v, ops, hs, h⟩ | ⟨ops, h⟩
  · have hhead : s.script.head? = some (.regWrite 0 v) := by rw [hs]; rfl
    rcases commandWrite_phase h hne with ⟨rfl, hp, ht⟩ | ⟨rfl, hp, ht⟩ | ⟨rfl, hp, ht⟩
    · exact .inl ⟨hp, ht, hhead⟩
    · exact .inr (.inl ⟨hp, ht, hhead⟩)
    · exact .inr (.inr (.inr (.inr (.inr (.inr ⟨hp, ht, hhead⟩)))))
  · rcases blockStep_phase h hne with hpal | hfill | hdec | hflip
    · exact .inr (.inr (.inl hpal))
    · exact .inr (.inr (.inr (.inl hfill)))
    · exact .inr (.inr (.inr (.inr (.inl hdec))))
    · exact .inr (.inr (.inr (.inr (.inr (.inl hflip)))))

/-! ### The descriptor, `FILL` and `FRAME_INDEX` (10_state.md R36) -/

/-- The registers the host writes in `IDLE` hold the same values in both states. -/
def SameFrameRegisters (t s : State) : Prop := t.desc = s.desc ∧ t.fill = s.fill ∧ t.frameIndex = s.frameIndex

theorem SameFrameRegisters.refl (s : State) : SameFrameRegisters s s := ⟨rfl, rfl, rfl⟩

/-- No block step writes them. -/
theorem blockStep_sameFrameRegisters {s t : State} (h : blockStep s = .next t) : SameFrameRegisters t s := by
  rcases blockStep_cases h with ⟨-, rfl⟩ | ⟨-, h⟩ | ⟨-, rfl⟩ | ⟨-, h⟩ | ⟨-, rfl⟩
  · exact .refl _
  · rcases palloadStep_shape h with ⟨k, q, pal, free, rfl⟩ | ⟨q, pcnt, stage, rfl⟩ | ⟨q, pal, rfl⟩ <;> exact .refl _
  · exact .refl _
  · rcases decodeStep_shape h with ⟨k, q, c, rfl⟩ | rfl | ⟨q, c, pos, run, rfl⟩ | ⟨-, q, c, pos, run, w, rfl⟩ <;>
      exact .refl _
  · exact .refl _

/-- No command writes them, in any state. -/
theorem commandWrite_sameFrameRegisters {v : Word} {s t : State} (h : commandWrite v s = .next t) :
    SameFrameRegisters t s := by
  rcases commandWrite_cases h with ⟨-, h⟩ | ⟨-, h⟩ | ⟨-, h⟩ | rfl
  · rcases execPalLoad_cases h with ⟨r, -, rfl⟩ | ⟨-, -, rfl⟩ <;> exact .refl _
  · rcases execStart_cases h with ⟨r, -, rfl⟩ | ⟨-, -, -, -, -, rfl⟩ <;> exact .refl _
  · rcases execAck_cases h with ⟨rfl, -, -⟩ | ⟨-, rfl⟩ <;> exact .refl _
  · exact .refl _

/-- A register write does so in `IDLE` only. -/
theorem regWrite_sameFrameRegisters {n : Nat} {v : Word} {s t : State} (h : regWrite n v s = .next t)
    (hp : s.phase ≠ .idle) : SameFrameRegisters t s := by
  rcases regWrite_cases h with ⟨r, -, rfl⟩ | ⟨hidle, -, -⟩
  · exact .refl _
  · exact absurd hidle hp

theorem hostOperation_sameFrameRegisters {op : HostOp} {s t : State} (h : hostOperation op s = .next t)
    (hp : s.phase ≠ .idle) (hreset : op ≠ .reset) : SameFrameRegisters t s := by
  rcases hostOperation_cases h with ⟨n, -, rfl⟩ | ⟨v, -, h⟩ | ⟨n, v, -, -, h⟩ | ⟨i, -, h⟩ | ⟨tok, -, rfl⟩ | ⟨-, rfl⟩ |
    ⟨hop, -⟩ | ⟨-, h⟩ | ⟨-, rfl⟩
  · exact .refl _
  · exact commandWrite_sameFrameRegisters h
  · exact regWrite_sameFrameRegisters h hp
  · rcases pixRead_cases h with ⟨-, -, w, -, rfl⟩ | ⟨-, rfl⟩ <;> exact .refl _
  · exact .refl _
  · exact .refl _
  · exact absurd hop hreset
  · exact blockStep_sameFrameRegisters h
  · exact .refl _

/-- Settles O50: only a register write could change them, and it is refused outside `IDLE`. -/
theorem descriptorIsFrozenOutsideIdle : Obligations.DescriptorIsFrozenOutsideIdle := by
  intro s t h hp hreset
  rcases step_cases h with ⟨h, -⟩ | ⟨op, ops, hs, h⟩
  · exact blockStep_sameFrameRegisters h
  · have hop : op ≠ .reset := by rintro rfl; exact hreset (by rw [hs]; rfl)
    exact hostOperation_sameFrameRegisters (s := { s with script := ops }) h hp hop

end Sys2Proof.Machine

/-! PROOFS. The register interface (10_state.md R23 to R37): what a read gives, what a write leaves, and which writes
are refused. -/

namespace Sys2Proof.Machine

/-! ### The status word (10_state.md R25) -/

/-- A bit of the status word comes from the field its position lies in. -/
theorem statusWord_getLsbD (s : State) (i : Nat) :
    s.statusWord.getLsbD i =
      if i < 3 then s.phase.code.getLsbD i
      else if i - 3 < 1 then (BitVec.ofBool s.palValid).getLsbD (i - 3)
      else if i - 3 - 1 < 4 then s.faultKind.code.getLsbD (i - 3 - 1)
      else (0#24).getLsbD (i - 3 - 1 - 4) := by
  change (0#24 ++ s.faultKind.code ++ BitVec.ofBool s.palValid ++ s.phase.code : BitVec (24 + 4 + 1 + 3)).getLsbD i = _
  rw [BitVec.getLsbD_append, BitVec.getLsbD_append, BitVec.getLsbD_append]

theorem statusWord_state (s : State) : s.statusWord.extractLsb' 0 3 = s.phase.code := by
  refine BitVec.eq_of_getLsbD_eq fun i hi => ?_
  simp [statusWord_getLsbD, hi]

theorem statusWord_palValid (s : State) : s.statusWord.getLsbD 3 = s.palValid :=
  (statusWord_getLsbD s 3).trans (by simp)

theorem statusWord_fault (s : State) : s.statusWord.extractLsb' 4 4 = s.faultKind.code := by
  refine BitVec.eq_of_getLsbD_eq fun i hi => ?_
  have hbit : 4 + i - 3 - 1 = i := by omega
  rw [BitVec.getLsbD_extractLsb', statusWord_getLsbD, if_neg (by omega), if_neg (by omega), hbit]
  simp [hi]

theorem statusWord_high (s : State) : s.statusWord.extractLsb' 8 24 = 0#24 := by
  refine BitVec.eq_of_getLsbD_eq fun i hi => ?_
  rw [BitVec.getLsbD_extractLsb', statusWord_getLsbD, if_neg (by omega), if_neg (by omega), if_neg (by omega)]
  simp

/-- The completion signal is on in the states of codes 5 and 6 (60_exceptions.md R161). -/
theorem irq_iff (s : State) : s.irq = true ↔ s.phase.code = 5#3 ∨ s.phase.code = 6#3 := by
  cases h : s.phase <;> simp [State.irq, Phase.code, h]

/-- Settles O35: each field of the concatenation, with its code case by case. -/
theorem statusShowsStatePaletteAndFault : Obligations.StatusShowsStatePaletteAndFault := by
  intro s
  simp only [show regRead s 1 = s.statusWord from rfl, statusWord_state, statusWord_fault, statusWord_palValid,
    statusWord_high]
  refine ⟨?_, trivial, ?_, trivial, irq_iff s⟩
  · cases s.phase <;> rfl
  · cases s.faultKind <;> rfl

/-! ### The other reads (10_state.md R26 to R37) -/

/-- Settles O37: the reason's code case by case, and the two halves of the cursor by division. -/
theorem registerMapReads : Obligations.RegisterMapReads := by
  intro s
  refine ⟨?_, rfl, rfl, rfl, rfl, rfl, rfl, rfl, rfl, rfl, rfl, fun hpos => ?_, rfl, ?_⟩
  · unfold regRead
    cases s.refusal <;> rfl
  · simp only [regRead, BitVec.toNat_ofNat]
    omega
  · have := s.run.isLt
    simp only [regRead, BitVec.toNat_setWidth]
    omega

/-! ### Writes -/

/-- A register write at the head of the script is the next step. -/
theorem step_regWrite {s : State} {n : Nat} {v : Word} {ops : List HostOp} (h : s.script = .regWrite n v :: ops)
    (hn : n ≠ 0) : step s = regWrite n v { s with script := ops } := by
  rw [step_host h nofun]
  exact if_neg hn

theorem regWrite_readOnly {n : Nat} (hn : writable n = false) (v : Word) (s : State) :
    regWrite n v s = .next (s.refusedWith .badRegister) :=
  if_neg (by rw [hn]; nofun)

theorem regWrite_idle {n : Nat} (hn : writable n = true) (v : Word) {s : State} (hp : s.phase = .idle) :
    regWrite n v s = .next (s.setReg n v).accepted :=
  (if_pos hn).trans (if_pos hp)

theorem regWrite_busy {n : Nat} (hn : writable n = true) (v : Word) {s : State} (hp : s.phase ≠ .idle) :
    regWrite n v s = .next (s.refusedWith .wrongState) :=
  (if_pos hn).trans (if_neg hp)

theorem writable_eq_false {n : Nat} (h : ¬(n = 3 ∨ n = 4 ∨ (8 ≤ n ∧ n ≤ 15))) : writable n = false :=
  Bool.eq_false_iff.2 fun hw => h ((writable_iff n).1 hw)

theorem commandWrite_unknown {v : Word} (h1 : v ≠ 1#32) (h2 : v ≠ 2#32) (h3 : v ≠ 3#32) (s : State) :
    commandWrite v s = .next (s.refusedWith .unknownCommand) := by
  have hdec : decode (.command v) = .error (.unknownCommand v) := by
    simp only [decode, decodeCommand, if_neg h1, if_neg h2, if_neg h3]
  simp only [commandWrite, hdec, refuse_eq]

/-- Settles O40: the three codes are tested and none matches. -/
theorem unknownCommandIsRefused : Obligations.UnknownCommandIsRefused := by
  intro s v ops hs h1 h2 h3
  rw [step_host hs nofun]
  exact commandWrite_unknown h1 h2 h3 _

theorem regRead_reserved {n : Nat} (hn : n = 5 ∨ n = 6 ∨ n = 7 ∨ 20 ≤ n) (s : State) : regRead s n = 0#32 := by
  unfold regRead
  split
  case h_17 => rfl
  all_goals omega

/-- Settles O36: a reserved number is neither a register nor writable. -/
theorem reservedRegistersReadZero : Obligations.ReservedRegistersReadZero := by
  intro s n v ops hn
  refine ⟨regRead_reserved hn s, rfl, fun hs => ?_⟩
  rw [step_regWrite hs (by omega), regWrite_readOnly (writable_eq_false (by omega))]
  rfl

/-! ### The value written is read back, and the other registers keep theirs -/

theorem regRead_setReg_same {n : Nat} (hn : writable n = true) (s : State) (v : Word) :
    regRead (s.setReg n v) n = v := by
  rcases (writable_iff n).1 hn with rfl | rfl | ⟨hlo, hhi⟩
  · rfl
  · rfl
  · interval_cases n <;> rfl

theorem regRead_setReg_other {m n : Nat} (h : m ≠ n) (s : State) (v : Word) :
    regRead (s.setReg n v) m = regRead s m := by
  unfold State.setReg
  split
  case h_11 => rfl
  all_goals unfold regRead; split <;> trivial

theorem regRead_accepted {m : Nat} (h : m ≠ 2) (s : State) : regRead s.accepted m = regRead s m := by
  unfold regRead
  split
  case h_2 => exact absurd rfl h
  all_goals rfl

/-- A register write touches `FILL`, `FRAME_INDEX`, the descriptor and `REFUSAL` only. -/
theorem setReg_accepted_frame (s : State) (n : Nat) (v : Word) :
    { (s.setReg n v).accepted with
      fill := s.fill, frameIndex := s.frameIndex, desc := s.desc, refusal := s.refusal } = s := by
  unfold State.setReg
  split <;> rfl

/-- Settles O39: an accepted write by its reads and its frame, the refused ones by their one effect. -/
theorem registerWritesFollowTheState : Obligations.RegisterWritesFollowTheState := by
  intro s n v ops hs
  refine ⟨fun hn hp => ?_, fun hn hp => ?_, fun hn => ?_⟩
  · have hw := (writable_iff n).2 hn
    rw [step_regWrite hs (by omega), regWrite_idle hw v (s := { s with script := ops }) hp]
    refine ⟨_, rfl, ?_, rfl, fun m hm h2 => ?_, setReg_accepted_frame { s with script := ops } n v⟩
    · rw [regRead_accepted (by omega), regRead_setReg_same hw]
    · rw [regRead_accepted h2, regRead_setReg_other hm]
      rfl
  · rw [step_regWrite hs (by omega)]
    exact regWrite_busy ((writable_iff n).2 hn) v hp
  · rw [step_regWrite hs (by omega), regWrite_readOnly (writable_eq_false (by omega))]
    rfl

end Sys2Proof.Machine

/-! PROOFS. The invariant right after reset (10_state.md R44). -/

namespace Sys2Proof.Machine

/-- Settles O46: reset is in `IDLE`, so the clauses on a load, a frame and the pixels ask nothing. -/
theorem resetSatisfiesTheInvariant : Obligations.ResetSatisfiesTheInvariant where
  pixWf := .nil
  paramsWf := by decide
  faultCode := by decide
  blockFaults := by decide
  loading := nofun
  pcntLe := by decide
  framed := nofun
  consumedLe := nofun
  posStride := nofun
  posLe := by decide
  filling := nofun
  filled := nofun
  finished := nofun

end Sys2Proof.Machine

/-! PROOFS. The host's side of the block (20_memory.md R49 to R53): its reads, its token queue, its wait, and where the
block takes no step of its own. -/

namespace Sys2Proof.Machine

/-- Settles O48: the width in DECODE and the written pixels in `DONE` rule out the model's two stops. -/
theorem invariantStatesAlwaysStep : Obligations.InvariantStatesAlwaysStep :=
  fun _ h => h.steps

/-! ### Reads (20_memory.md R51, R52) -/

theorem pixRead_written {i : Nat} {w : PixelWord} {s : State} (hp : s.phase = .done) (hi : i < s.N)
    (hw : s.pix.read i = some w) : pixRead i s = .next (s.answered (.pixel w)) := by
  simp only [pixRead, if_pos (And.intro hp hi), hw]

theorem pixRead_notReadable {i : Nat} {s : State} (h : ¬(s.phase = .done ∧ i < s.N)) :
    pixRead i s = .next ((s.answered .noPixel).refusedWith .notReadable) :=
  if_neg h

/-- Settles O38: each read is the host's operation on the state without its script entry. -/
theorem hostReadsHaveNoSideEffect : Obligations.HostReadsHaveNoSideEffect := by
  intro s n ops
  refine ⟨fun hs => ?_, fun hs hp hn w hw => ?_, fun hs hout => ?_⟩ <;> rw [step_host hs nofun]
  · rfl
  · exact pixRead_written (s := { s with script := ops }) hp hn hw
  · refine pixRead_notReadable (s := { s with script := ops }) ?_
    rintro ⟨hp, hn⟩
    exact hout.elim (absurd hp) (Nat.not_le_of_lt hn)

/-! ### The token queue and the wait (20_memory.md R49, R50) -/

theorem Phase.busy_eq_false_iff (p : Phase) : p.busy = false ↔ p = .idle ∨ p = .done ∨ p = .fault := by
  cases p <;> decide

/-- While an operation is in progress a wait gives the turn to the block (log 1). -/
theorem step_await_busy {s : State} {ops : List HostOp} (h : s.script = .await :: ops) (hb : s.phase.busy = true) :
    step s = blockStep s := by
  simp [step, agentStep, h, hb]

theorem step_await_rest {s : State} {ops : List HostOp} (h : s.script = .await :: ops) (hb : s.phase.busy = false) :
    step s = .next { s with script := ops } := by
  simp [step, agentStep, h, hb, hostOperation]

/-- Settles O42: a push and a discard write the queue only, and a wait asks whether an operation is in progress. -/
theorem hostQueuesTokensInOrder : Obligations.HostQueuesTokensInOrder := by
  intro s tok ops
  refine ⟨fun hs => ?_, fun hs => ?_, fun hs hp => ?_, fun hs hidle hdone hfault => ?_⟩
  · rw [step_host hs nofun]
    rfl
  · rw [step_host hs nofun]
    rfl
  · exact step_await_rest hs ((Phase.busy_eq_false_iff _).2 hp)
  · refine step_await_busy hs (Bool.of_not_eq_false fun hb => ?_)
    rcases (Phase.busy_eq_false_iff _).1 hb with hp | hp | hp
    · exact hidle hp
    · exact hdone hp
    · exact hfault hp

/-! ### Where the block has no step (20_memory.md R50, 10_state.md R41) -/

theorem blockStep_rest {s : State} (h : s.phase = .idle ∨ s.phase = .done ∨ s.phase = .fault) :
    blockStep s = .next s := by
  rcases h with h | h | h <;> simp only [blockStep, h]

/-- In DECODE a token is due in a literal run and between commands alike, as long as `CONSUMED < LEN`. -/
theorem decodeStep_starved {s : State} (hq : s.q = []) (hc : s.consumed < s.len) : decodeStep s = .next s := by
  by_cases hr : s.run = 0#7
  · rw [decodeStep_control hr hc, fetchStreamByte_nil hq]
  · rw [decodeStep_payload hr hc, fetchStreamByte_nil hq]

/-- Settles O44: three phases have no step, and in the other two an empty queue gives no token. -/
theorem blockRestsWhereItHasNoStep : Obligations.BlockRestsWhereItHasNoStep := by
  intro s hs
  rw [step_nil hs]
  refine ⟨blockStep_rest, fun hq hp => ?_, fun hq hp hc => ?_⟩
  · rw [blockStep_palload hp]
    exact takeToken_nil hq
  · rw [blockStep_decode hp, decodeStep_starved hq hc]

end Sys2Proof.Machine

/-! PROOFS. The encoding of single instructions (30_encoding.md R67, R70, R75, R84): the two fields of a control byte, the
four kinds of control byte, and the decoder's answer for each. -/

namespace Sys2Proof

/-! ### The fields of a control byte (30_encoding.md R67) -/

theorem runFlag_eq_getLsbD (b : Byte) : runFlag b = b.getLsbD 7 := by
  have hmask : b &&& Config.runFlag = if b.getLsbD 7 then Config.runFlag else 0#8 := BitVec.and_twoPow b 7
  rw [runFlag, hmask]
  cases b.getLsbD 7 <;> rfl

theorem count_eq_setWidth (b : Byte) : count b = b.setWidth 7 := by
  rw [count, BitVec.setWidth_and]
  exact BitVec.and_allOnes

theorem runFlag_append (t : BitVec 1) (n : BitVec 7) : runFlag (t ++ n) = t.getLsbD 0 :=
  (runFlag_eq_getLsbD _).trans BitVec.getLsbD_append

theorem count_append (t : BitVec 1) (n : BitVec 7) : count (t ++ n) = n :=
  (count_eq_setWidth _).trans BitVec.setWidth_append_eq_right

/-- A control byte is its two fields. -/
theorem runFlag_append_count (b : Byte) : BitVec.ofBool (runFlag b) ++ count b = b := by
  rw [runFlag_eq_getLsbD, count_eq_setWidth]
  exact BitVec.cons_msb_setWidth (w := 7) b

/-- Settles O2: the flag is the bit the mask keeps, and the count is what is left of the byte below it. -/
theorem controlByteHasFlagAndCount : Obligations.ControlByteHasFlagAndCount := by
  intro b
  refine ⟨runFlag_eq_getLsbD b, ?_⟩
  rw [count_eq_setWidth]
  exact BitVec.toNat_setWidth 7 b

/-! ### The four kinds of control byte (30_encoding.md R70) -/

/-- Every byte is of one of the four kinds, the count 0 apart from the others. -/
theorem controlByte_cases (b : Byte) :
    b = 0x80#8 ∨ (∃ n, n ≠ 0#7 ∧ b = 1#1 ++ n) ∨ b = 0x00#8 ∨ ∃ n, n ≠ 0#7 ∧ b = 0#1 ++ n := by
  have hb := runFlag_append_count b
  by_cases hn : count b = 0#7 <;> cases ht : runFlag b <;> rw [ht] at hb
  · exact .inr (.inr (.inl (by rw [← hb, hn]; rfl)))
  · exact .inl (by rw [← hb, hn]; rfl)
  · exact .inr (.inr (.inr ⟨_, hn, hb.symm⟩))
  · exact .inr (.inl ⟨_, hn, hb.symm⟩)

theorem decodeControl_eol : decodeControl 0x80#8 = .eol := rfl

theorem decodeControl_lit0 : decodeControl 0x00#8 = .lit0 := rfl

/-- A byte with another count is another byte. -/
theorem append_ne_of_count {n : BitVec 7} {b : Byte} (t : BitVec 1) (h : n ≠ count b) : t ++ n ≠ b :=
  fun e => h (by rw [← e, count_append])

theorem decodeControl_skip {n : BitVec 7} (h : n ≠ 0#7) : decodeControl (1#1 ++ n) = .skip n := by
  have hflag : runFlag (1#1 ++ n) = true := runFlag_append 1#1 n
  rw [decodeControl, if_neg (append_ne_of_count _ h), if_pos hflag, count_append]

theorem decodeControl_lit {n : BitVec 7} (h : n ≠ 0#7) : decodeControl (0#1 ++ n) = .lit n := by
  have hflag : runFlag (0#1 ++ n) = false := runFlag_append 0#1 n
  rw [decodeControl, if_neg (append_ne_of_count _ h), if_neg (Bool.eq_false_iff.1 hflag),
    if_neg (append_ne_of_count _ h), count_append]

/-! ### Encoder and decoder -/

/-- Settles O1: each of the decoder's tests is run on the word. -/
theorem specWordsDecodeToTheirInstructions : Obligations.SpecWordsDecodeToTheirInstructions := by
  unfold Obligations.SpecWordsDecodeToTheirInstructions
  decide

theorem decode_encode {i : Instr} (h : i.wellFormed = true) : decode (encode i) = .ok i := by
  cases i with
  | eol => exact congrArg Except.ok decodeControl_eol
  | skip n => exact congrArg Except.ok (decodeControl_skip (bne_iff_ne.1 h))
  | lit0 => exact congrArg Except.ok decodeControl_lit0
  | lit n => exact congrArg Except.ok (decodeControl_lit (bne_iff_ne.1 h))
  | palLoad | start | ack => rfl

theorem decodeControl_wellFormed (b : Byte) : (decodeControl b).wellFormed = true := by
  rcases controlByte_cases b with rfl | ⟨n, hn, rfl⟩ | rfl | ⟨n, hn, rfl⟩
  · rfl
  · rw [decodeControl_skip hn]; exact bne_iff_ne.2 hn
  · rfl
  · rw [decodeControl_lit hn]; exact bne_iff_ne.2 hn

theorem encode_decodeControl (b : Byte) : encode (decodeControl b) = .control b := by
  rcases controlByte_cases b with rfl | ⟨n, hn, rfl⟩ | rfl | ⟨n, hn, rfl⟩
  · rfl
  · rw [decodeControl_skip hn]; rfl
  · rfl
  · rw [decodeControl_lit hn]; rfl

theorem decodeCommand_ok {v : Word} {i : Instr} (h : decode (.command v) = .ok i) :
    i.wellFormed = true ∧ encode i = .command v := by
  rcases Machine.decodeCommand_cases h with ⟨rfl, rfl⟩ | ⟨rfl, rfl⟩ | ⟨rfl, rfl⟩ <;> exact ⟨rfl, rfl⟩

/-- Settles O3: instruction by instruction, and by the four kinds of control byte. -/
theorem encodeAndDecodeAgree : Obligations.EncodeAndDecodeAgree :=
  ⟨fun _ => decode_encode, fun b => ⟨decodeControl_wellFormed b, encode_decodeControl b⟩⟩

/-! ### The opcode table (30_encoding.md R84) -/

theorem lookupMnemonic_encode (i : Instr) : Laws.TableRow.Statement i := by
  cases i with
  | eol => exact Laws.TableRow.eol
  | skip n => exact Laws.TableRow.skip n
  | lit0 => exact Laws.TableRow.lit0
  | lit n => exact Laws.TableRow.lit n
  | palLoad => exact Laws.TableRow.palLoad
  | start => exact Laws.TableRow.start
  | ack => exact Laws.TableRow.ack

/-- The table names a code word by the well-formed instruction it encodes. -/
theorem lookupMnemonic_of_encode {i : Instr} {c : CodeWord} (hi : i.wellFormed = true) (hc : encode i = c) :
    lookupMnemonic c.tableWord.1 c.tableWord.2 = some i.mnemonic :=
  hc ▸ lookupMnemonic_encode i hi

theorem decodeCommand_error {v : Word} {e : DecodeError} (h : decode (.command v) = .error e) :
    v ≠ 1#32 ∧ v ≠ 2#32 ∧ v ≠ 3#32 := by
  refine ⟨?_, ?_, ?_⟩ <;> rintro rfl <;> cases h

/-- The rows of host commands compare the whole value. -/
theorem lookupMnemonic_unknown {v : Word} (h1 : v ≠ 1#32) (h2 : v ≠ 2#32) (h3 : v ≠ 3#32) :
    lookupMnemonic 32 v = none := by
  have hmask : v &&& 0xFFFFFFFF#32 = v := BitVec.and_allOnes
  simp [lookupMnemonic, opcodeTable, hmask, h1, h2, h3]

/-- Settles O4: the table names what the encoder writes, and a word that decodes is what the encoder writes. -/
theorem opcodeTableNamesTheDecodedInstruction : Obligations.OpcodeTableNamesTheDecodedInstruction := by
  refine ⟨fun b => ?_, fun v i h => ?_, fun v e h => ?_⟩
  · exact lookupMnemonic_of_encode (decodeControl_wellFormed b) (encode_decodeControl b)
  · obtain ⟨hwf, henc⟩ := decodeCommand_ok h
    exact lookupMnemonic_of_encode hwf henc
  · obtain ⟨h1, h2, h3⟩ := decodeCommand_error h
    exact lookupMnemonic_unknown h1 h2 h3

end Sys2Proof

/-! PROOFS. Whole streams (30_encoding.md R73, R74, R81, R83): what the parse makes of the bytes of one command, and from
it that parse and assembly undo each other. -/

namespace Sys2Proof

/-! ### The payload of a literal run -/

/-- A run whose payload is there takes exactly the bytes it owes. -/
theorem parseFrom_payload {payload : List Byte} (hne : payload ≠ []) (rest : List Byte) (n : BitVec 7)
    (got : List Byte) :
    parseFrom (payload ++ rest) payload.length n got = .lit (got.reverse ++ payload) :: parse rest := by
  induction payload generalizing got with
  | nil => exact absurd rfl hne
  | cons b payload ih =>
    cases payload with
    | nil => simp [parseFrom, parse]
    | cons c payload => simpa [parseFrom] using ih (by simp) (b :: got)

/-- A run that owes more than is there is truncated. -/
theorem parseFrom_truncated {payload : List Byte} {owed : Nat} (h : payload.length < owed) (n : BitVec 7)
    (got : List Byte) : parseFrom payload owed n got = [.truncatedLit n (got.reverse ++ payload)] := by
  induction payload generalizing owed got with
  | nil =>
    obtain ⟨k, rfl⟩ := Nat.exists_eq_succ_of_ne_zero (Nat.ne_of_gt h)
    simp [parseFrom]
  | cons b payload ih =>
    obtain ⟨k, rfl⟩ := Nat.exists_eq_add_of_le' (show 2 ≤ owed by simp at h; omega)
    simpa [parseFrom] using ih (by simp at h; omega) (b :: got)

/-! ### The commands and their bytes -/

/-- A literal run is well formed where a count says how long its payload is. -/
theorem Command.lit_wellFormed_iff (payload : List Byte) :
    (Command.lit payload).wellFormed = true ↔ ∃ n, n ≠ 0#7 ∧ payload.length = n.toNat := by
  simp only [Command.wellFormed, Bool.and_eq_true, decide_eq_true_eq]
  constructor
  · rintro ⟨hpos, hle⟩
    have hlen : (BitVec.ofNat 7 payload.length).toNat = payload.length := by
      rw [BitVec.toNat_ofNat]
      omega
    exact ⟨_, fun h => by rw [h] at hlen; exact absurd hlen (Nat.ne_of_lt hpos), hlen.symm⟩
  · rintro ⟨n, hn, hlen⟩
    have hzero : n.toNat ≠ 0 := fun h => hn (BitVec.eq_of_toNat_eq h)
    have := n.isLt
    omega

/-- A literal run's control byte is that count under a clear run flag (30_encoding.md R67). -/
theorem Command.lit_bytes {payload : List Byte} {n : BitVec 7} (h : payload.length = n.toNat) :
    (Command.lit payload).bytes = (0#1 ++ n) :: payload := by
  have hbyte : BitVec.ofNat 8 n.toNat = 0#1 ++ n :=
    (BitVec.ofNat_toNat 8 n).trans (BitVec.setWidth_eq_append (by decide))
  rw [Command.bytes, h, hbyte]

theorem Command.wellFormedLast_of_wellFormed {c : Command} (h : c.wellFormed = true) : c.wellFormedLast = true := by
  cases c with
  | truncatedLit n payload => cases h
  | eol | skip | lit0 | lit => exact h

/-- What can stand last is a whole command or a truncated `LIT`. -/
theorem Command.wellFormedLast_cases {c : Command} (h : c.wellFormedLast = true) :
    c.wellFormed = true ∨ ∃ n payload, c = .truncatedLit n payload ∧ payload.length < n.toNat := by
  cases c with
  | truncatedLit n payload => exact .inr ⟨n, payload, rfl, of_decide_eq_true h⟩
  | eol | skip | lit0 | lit => exact .inl h

theorem Command.bytes_length_pos (c : Command) : 0 < c.bytes.length := by
  cases c <;> exact Nat.succ_pos _

/-! ### One command at the head of a stream (30_encoding.md R74) -/

theorem parse_nil : parse [] = [] := rfl

theorem parse_eol (rest : List Byte) : parse (0x80#8 :: rest) = .eol :: parse rest := rfl

theorem parse_lit0 (rest : List Byte) : parse (0x00#8 :: rest) = .lit0 :: parse rest := rfl

theorem parse_skip {n : BitVec 7} (h : n ≠ 0#7) (rest : List Byte) :
    parse ((1#1 ++ n) :: rest) = .skip n :: parse rest := by
  simp only [parse, parseFrom, decodeControl_skip h]

theorem parse_eq_parseFrom {n : BitVec 7} (h : n ≠ 0#7) (rest : List Byte) :
    parse ((0#1 ++ n) :: rest) = parseFrom rest n.toNat n [] := by
  simp only [parse, parseFrom, decodeControl_lit h]

theorem parse_lit {n : BitVec 7} {payload : List Byte} (h : n ≠ 0#7) (hlen : payload.length = n.toNat)
    (rest : List Byte) : parse ((0#1 ++ n) :: (payload ++ rest)) = .lit payload :: parse rest := by
  have hne : payload ≠ [] := by
    rintro rfl
    exact h (BitVec.eq_of_toNat_eq hlen.symm)
  rw [parse_eq_parseFrom h, ← hlen]
  exact parseFrom_payload hne rest n []

theorem parse_truncatedLit {n : BitVec 7} {payload : List Byte} (h : payload.length < n.toNat) :
    parse ((0#1 ++ n) :: payload) = [.truncatedLit n payload] := by
  have hn : n ≠ 0#7 := by rintro rfl; exact absurd h (Nat.not_lt_zero _)
  rw [parse_eq_parseFrom hn]
  exact parseFrom_truncated h n []

/-! ### Parse of an assembly -/

/-- The bytes of a whole command parse to that command, whatever follows. -/
theorem parse_bytes_append {c : Command} (h : c.wellFormed = true) (rest : List Byte) :
    parse (c.bytes ++ rest) = c :: parse rest := by
  cases c with
  | eol => exact parse_eol rest
  | skip n => exact parse_skip (bne_iff_ne.1 h) rest
  | lit0 => exact parse_lit0 rest
  | lit payload =>
    obtain ⟨n, hn, hlen⟩ := (Command.lit_wellFormed_iff payload).1 h
    rw [Command.lit_bytes hlen]
    exact parse_lit hn hlen rest
  | truncatedLit n payload => cases h

theorem parse_bytes {c : Command} (h : c.wellFormedLast = true) : parse c.bytes = [c] := by
  rcases c.wellFormedLast_cases h with hc | ⟨n, payload, rfl, hlen⟩
  · rw [← List.append_nil c.bytes, parse_bytes_append hc, parse_nil]
  · exact parse_truncatedLit hlen

theorem parse_assemble_append {cs : List Command} (h : ∀ c ∈ cs, c.wellFormed = true) (rest : List Byte) :
    parse (assemble cs ++ rest) = cs ++ parse rest := by
  induction cs with
  | nil => rfl
  | cons c cs ih =>
    obtain ⟨hc, hcs⟩ := List.forall_mem_cons.1 h
    rw [assemble, List.flatMap_cons, List.append_assoc, parse_bytes_append hc]
    exact congrArg (c :: ·) (ih hcs)

/-- Settles O5: the whole commands by induction on the list, then the last one. -/
theorem parseInvertsAssembly : Obligations.ParseInvertsAssembly := by
  refine ⟨parse_nil, fun cs c hcs hc => ?_⟩
  calc parse (assemble (cs ++ [c])) = parse (assemble cs ++ c.bytes) := by simp [assemble]
    _ = cs ++ parse c.bytes := parse_assemble_append hcs _
    _ = cs ++ [c] := by rw [parse_bytes hc]

/-! ### Assembly of a parse -/

/-- A byte sequence that is not empty starts with a whole command, or is one truncated `LIT`
(30_encoding.md R74, R83). -/
theorem exists_first_command (b : Byte) (rest : List Byte) :
    (∃ c tail, Command.wellFormed c = true ∧ b :: rest = c.bytes ++ tail) ∨
    ∃ c, Command.wellFormedLast c = true ∧ b :: rest = c.bytes := by
  rcases controlByte_cases b with rfl | ⟨n, hn, rfl⟩ | rfl | ⟨n, hn, rfl⟩
  · exact .inl ⟨.eol, rest, rfl, rfl⟩
  · exact .inl ⟨.skip n, rest, bne_iff_ne.2 hn, rfl⟩
  · exact .inl ⟨.lit0, rest, rfl, rfl⟩
  · by_cases hlen : n.toNat ≤ rest.length
    · have htake : (rest.take n.toNat).length = n.toNat := List.length_take_of_le hlen
      refine .inl ⟨.lit (rest.take n.toNat), rest.drop n.toNat, (Command.lit_wellFormed_iff _).2 ⟨n, hn, htake⟩, ?_⟩
      rw [Command.lit_bytes htake, List.cons_append, List.take_append_drop]
    · exact .inr ⟨.truncatedLit n rest, decide_eq_true (Nat.lt_of_not_le hlen), rfl⟩

/-- Settles O6: the first command's bytes are cut off and the rest is shorter. -/
theorem assemblyInvertsParse : Obligations.AssemblyInvertsParse := by
  intro bytes
  induction hk : bytes.length using Nat.strong_induction_on generalizing bytes with
  | _ k ih =>
    cases bytes with
    | nil => exact ⟨rfl, List.forall_mem_nil _⟩
    | cons b rest =>
      rcases exists_first_command b rest with ⟨c, tail, hc, hbytes⟩ | ⟨c, hc, hbytes⟩ <;> rw [hbytes] at hk ⊢
      · have hlt : tail.length < k := by
          have := c.bytes_length_pos
          rw [← hk, List.length_append]
          omega
        obtain ⟨hback, hwf⟩ := ih _ hlt tail rfl
        rw [parse_bytes_append hc]
        exact ⟨congrArg (c.bytes ++ ·) hback, List.forall_mem_cons.2 ⟨c.wellFormedLast_of_wellFormed hc, hwf⟩⟩
      · rw [parse_bytes hc]
        exact ⟨List.append_nil _, List.forall_mem_singleton.2 hc⟩

end Sys2Proof

/-! PROOFS. The handoff (30_encoding.md R80, 42_frame_control.md R125): where every word below `N` is written, reading
them in index order leaves none out. -/

namespace Sys2Proof.Machine

/-- Where the words below `n` are written, collecting them is reading each. -/
theorem Memory.filterMap_read_range {m : Memory} {n : Nat} (h : ∀ i, i < n → (m.read i).isSome = true) :
    (List.range n).filterMap m.read = (List.range n).map fun i => (m.read i).getD 0#32 := by
  rw [← List.filterMap_eq_map]
  refine List.filterMap_congr fun i hi => ?_
  obtain ⟨w, hw⟩ := Option.isSome_iff_exists.1 (h i (List.mem_range.1 hi))
  simp [hw]

theorem Memory.length_filterMap_read {m : Memory} {n : Nat} (h : ∀ i, i < n → (m.read i).isSome = true) :
    ((List.range n).filterMap m.read).length = n := by
  simp [Memory.filterMap_read_range h]

theorem Memory.getElem?_filterMap_read {m : Memory} {n i : Nat} (h : ∀ i, i < n → (m.read i).isSome = true)
    (hi : i < n) : ((List.range n).filterMap m.read)[i]? = m.read i := by
  obtain ⟨w, hw⟩ := Option.isSome_iff_exists.1 (h i hi)
  simp [Memory.filterMap_read_range h, hi, hw]

/-- Settles O34: in `DONE` the invariant has every word below `N` written. -/
theorem handoffIsTheWholeFrame : Obligations.HandoffIsTheWholeFrame := by
  intro s hinv
  refine ⟨fun hp => ?_, fun hp => if_neg hp⟩
  have hwritten : ∀ i, i < s.N → (s.pix.read i).isSome = true := fun i => (hinv.filled (by rw [hp]; rfl) i).2
  exact ⟨_, if_pos hp, rfl, rfl, rfl, Memory.length_filterMap_read hwritten,
    fun i hi => Memory.getElem?_filterMap_read hwritten hi⟩

end Sys2Proof.Machine

/-! PROOFS. Phase DECODE step by step (40_rle_commands.md R85 to R94): the meanings of the four control bytes, the steps
that take no byte, and the payload step with the one pixel it writes. -/

namespace Sys2Proof.Machine

/-! ### The meanings of the control bytes (40_rle_commands.md R88 to R90, R94) -/

/-- Settles O8: the meaning has one branch. -/
theorem skipAdvancesTheCursor : Obligations.SkipAdvancesTheCursor := fun _ _ => rfl

/-- Settles O12: the meaning has one branch. -/
theorem litSetsTheRunCounter : Obligations.LitSetsTheRunCounter := fun _ _ => rfl

/-- The jump of `EOL` adds what is left of the row. -/
theorem nextRow_eq (w pos : Nat) : nextRow w pos = pos + w - pos % w := by
  have hdiv := Nat.div_add_mod' pos w
  rw [nextRow, Nat.succ_mul]
  omega

theorem nextRow_mod (w pos : Nat) : nextRow w pos % w = 0 := Nat.mul_mod_left _ _

/-- Settles O10: less than a row is left out, nothing exactly at a row start. -/
theorem eolAddsTheRestOfTheRow : Obligations.EolAddsTheRestOfTheRow := by
  intro w pos hw
  refine ⟨nextRow_mod w pos, nextRow_eq w pos, ?_⟩
  have hmod : pos % w < w := Nat.mod_lt pos hw
  rw [nextRow_eq]
  omega

theorem execEol_next {s : State} (hw : 1 ≤ s.W) : execEol s = .next { s with pos := nextRow s.W s.pos } :=
  if_neg (Nat.ne_of_gt hw)

/-- Settles O9: the target is the start of the next row, at most a row away. -/
theorem eolJumpsToTheNextRow : Obligations.EolJumpsToTheNextRow := by
  intro s hw
  obtain ⟨hgt, hle⟩ := nextRow_bounds s.pos hw
  exact ⟨nextRow s.W s.pos, execEol_next hw, rfl, nextRow_mod _ _, hgt, hle⟩

/-- Settles O13: `EMPTY_LIT` picks the branch, under `decrement` the column and then the cursor. -/
theorem reservedByteFollowsEmptyLit : Obligations.ReservedByteFollowsEmptyLit := by
  intro s
  simp only [exec_lit0, execLit0]
  refine ⟨fun he => by rw [he], fun he => by rw [he], fun he hw => ?_⟩
  simp only [he, if_neg (Nat.ne_of_gt hw)]
  refine ⟨fun hrow hpos => ?_, fun hrow hpos => ?_, fun hrow => ?_⟩
  · rw [if_pos hrow, if_pos hpos]
  · rw [if_pos hrow, if_neg hpos]
  · rw [if_neg hrow]

/-- Settles O19: each meaning's next state, one field written, the pixel memory the same data. -/
theorem controlByteFrame : Obligations.ControlByteFrame := by
  refine fun s t => ⟨fun h => ?_, fun n h => ?_, fun n h => ?_, fun h => ?_⟩
  · obtain ⟨-, rfl⟩ := execEol_cases h
    exact ⟨rfl, fun _ => rfl⟩
  · obtain rfl := execSkip_cases h
    exact ⟨rfl, fun _ => rfl⟩
  · obtain rfl := execLit_cases h
    exact ⟨rfl, fun _ => rfl⟩
  · rcases execLit0_cases h with rfl | rfl | ⟨-, -, -, -, rfl⟩
    · exact .inr rfl
    · exact .inl ⟨rfl, fun _ => rfl⟩
    · exact .inl ⟨rfl, fun _ => rfl⟩

/-! ### The steps between commands (40_rle_commands.md R85, R87) -/

theorem step_decode {s : State} (hs : s.script = []) (hp : s.phase = .decode) : step s = decodeStep s := by
  rw [step_nil hs, blockStep_decode hp]

/-- Where a control byte is due, the step is its meaning on the state with the byte taken and counted. -/
theorem step_controlByte {s : State} {b : Byte} {rest : List Token} (hs : s.script = []) (hp : s.phase = .decode)
    (hr : s.run = 0#7) (hc : s.consumed < s.len) (hq : s.q = .byte b :: rest) :
    step s = exec (decodeControl b) { s with q := rest, consumed := s.consumed + 1#32 } := by
  rw [step_decode hs hp, decodeStep_control hr hc, fetchStreamByte_byte hq]

theorem commandWrite_ok {v : Word} {i : Instr} (h : decode (.command v) = .ok i) (s : State) :
    commandWrite v s = exec i s := by
  simp only [commandWrite, h]

/-- Settles O7: the byte of the stream, the block's turn, and the code written to `CMD`. -/
theorem stepRunsTheDecodedInstruction : Obligations.StepRunsTheDecodedInstruction := by
  refine ⟨fun _ _ _ => step_controlByte, fun _ _ => step_letBlock, fun _ => step_nil, fun s v i ops hs hi => ?_⟩
  rw [step_host hs nofun]
  exact commandWrite_ok hi _

/-- Settles O15: the fetch answers for `Err` and `End` before any byte is counted. -/
theorem controlFetchFaultsWithoutAByte : Obligations.ControlFetchFaultsWithoutAByte := by
  intro s rest hs hp hr hc
  rw [step_decode hs hp, decodeStep_control hr hc]
  exact ⟨fetchStreamByte_err, fetchStreamByte_eos⟩

/-- Settles O16: `RUN` and `CONSUMED` alone choose the exit step. -/
theorem exitStepEndsTheDecode : Obligations.ExitStepEndsTheDecode := by
  intro s hs hp hr hc
  rw [step_decode hs hp, decodeStep_exit hr (BitVec.le_of_eq hc.symm)]

/-! ### The payload step (40_rle_commands.md R92) -/

/-- What the payload step leaves when it takes a byte inside the buffer. -/
def State.literalTaken (s : State) (idx : Byte) (rest : List Token) : State :=
  { s with
    q := rest
    consumed := s.consumed + 1#32
    pix := s.pix.write s.pos (mapIndex s.pal idx)
    run := s.run - 1#7
    pos := if s.run = 1#7 then rowFill s.W (s.pos + 1) else s.pos + 1 }

theorem step_payloadByte {s : State} {idx : Byte} {rest : List Token} (hs : s.script = []) (hp : s.phase = .decode)
    (hr : s.run ≠ 0#7) (hc : s.consumed < s.len) (hq : s.q = .byte idx :: rest) (hn : s.pos < s.N) :
    step s = .next (s.literalTaken idx rest) := by
  have hwrite := writeLiteral_inside (idx := idx) (s := { s with q := rest, consumed := s.consumed + 1#32 }) hn
  simp only [run_sub_eq_zero] at hwrite
  rw [step_decode hs hp, decodeStep_payload hr hc, fetchStreamByte_byte hq]
  exact hwrite

/-- The cursor after a payload byte in the words of R92: the run is over, on a multiple of the width. -/
theorem State.literalTaken_pos (s : State) (idx : Byte) (rest : List Token) :
    (s.literalTaken idx rest).pos =
      if s.run = 1#7 ∧ (s.pos + 1) % s.W = 0 then s.pos + 1 - 1 else s.pos + 1 :=
  (ite_and ..).symm

/-- Settles O14: the two tests before the fetch and after it, then the write. -/
theorem payloadStepWritesOnePixelOrFaults : Obligations.PayloadStepWritesOnePixelOrFaults := by
  intro s hs hp hr
  refine ⟨fun hc => ?_, fun hc rest => ⟨fun hq => ?_, fun hq => ?_, fun idx hq hn => ?_, fun idx hq hn => ?_⟩⟩
  · rw [step_decode hs hp, decodeStep_truncated hr (BitVec.le_of_eq hc.symm), raise_eq]
  · rw [step_decode hs hp, decodeStep_payload hr hc, fetchStreamByte_err hq, raise_eq]
  · rw [step_decode hs hp, decodeStep_payload hr hc, fetchStreamByte_eos hq, raise_eq]
  · rw [step_decode hs hp, decodeStep_payload hr hc, fetchStreamByte_byte hq]
    exact writeLiteral_outside hn
  · exact ⟨s.literalTaken idx rest, step_payloadByte hs hp hr hc hq hn, Memory.read_write_same _ _ _,
      fun i hi => Memory.read_write_other _ _ hi.symm, run_sub_toNat hr, s.literalTaken_pos idx rest, rfl⟩

/-! ### What every step of DECODE keeps (40_rle_commands.md R86, R96) -/

/-- A control byte's meaning takes no token and counts no byte (40_rle_commands.md R86). -/
theorem execControl_queue {b : Byte} {s t : State} (h : exec (decodeControl b) s = .next t) :
    t.q = s.q ∧ t.consumed = s.consumed := by
  rcases execControl_shape h with rfl | ⟨pos, run, rfl⟩ <;> exact ⟨rfl, rfl⟩

theorem writeLiteral_queue {idx : Byte} {s t : State} (h : writeLiteral idx s = .next t) :
    t.q = s.q ∧ t.consumed = s.consumed := by
  rcases writeLiteral_cases h with ⟨-, rfl⟩ | ⟨-, rfl⟩ <;> exact ⟨rfl, rfl⟩

/-- A control byte's meaning does not move the cursor back, unless `EMPTY_LIT` is `decrement`. -/
theorem execControl_pos_le {b : Byte} {s t : State} (he : s.params.emptyLit ≠ .decrement)
    (h : exec (decodeControl b) s = .next t) : s.pos ≤ t.pos := by
  rcases decodeControl_cases b with hb | hb | hb | hb <;> rw [hb] at h
  · obtain ⟨hw, rfl⟩ := execEol_cases h
    exact Nat.le_of_lt (nextRow_bounds s.pos (Nat.pos_of_ne_zero hw)).1
  · obtain rfl := execSkip_cases h
    exact Nat.le_add_right _ _
  · rcases execLit0_cases h with rfl | rfl | ⟨hdec, -⟩
    · exact Nat.le_refl _
    · exact Nat.le_refl _
    · exact absurd hdec he
  · obtain rfl := execLit_cases h
    exact Nat.le_refl _

/-- A literal pixel raises the cursor by one and the row-fill decrement takes back at most that. -/
theorem writeLiteral_pos_le {idx : Byte} {s t : State} (h : writeLiteral idx s = .next t) : s.pos ≤ t.pos := by
  rcases writeLiteral_cases h with ⟨-, rfl⟩ | ⟨-, rfl⟩
  · exact Nat.le_refl _
  · have hfill : s.pos ≤ rowFill s.W (s.pos + 1) := (rowFill_bounds s.W (s.pos + 1)).1
    dsimp only
    split
    · exact hfill
    · exact Nat.le_succ _

/-- A fetch moves the cursor only through what is done with the byte. -/
theorem fetchStreamByte_pos_le {s t : State} {k : Byte → State → Result} (h : fetchStreamByte s k = .next t)
    (hk : ∀ b q c, k b { s with q := q, consumed := c } = .next t → s.pos ≤ t.pos) : s.pos ≤ t.pos := by
  rcases fetchStreamByte_cases h with ⟨-, rfl⟩ | ⟨rest, -, rfl⟩ | ⟨rest, -, rfl⟩ | ⟨b, rest, -, h⟩
  · exact Nat.le_refl _
  · exact Nat.le_refl _
  · exact Nat.le_refl _
  · exact hk b _ _ h

/-- Settles O18: the exit step keeps the cursor, and neither a control byte nor a payload byte moves it back. -/
theorem cursorNeverDecreases : Obligations.CursorNeverDecreases := by
  intro s t hs hp he h
  rw [step_decode hs hp] at h
  rcases decodeStep_cases h with ⟨-, -, rfl⟩ | ⟨-, -, h⟩ | ⟨-, h⟩
  · exact Nat.le_refl _
  · exact fetchStreamByte_pos_le h fun b q c => execControl_pos_le (s := { s with q := q, consumed := c }) he
  · rcases payloadStep_cases h with ⟨-, rfl⟩ | ⟨-, h⟩
    · exact Nat.le_refl _
    · exact fetchStreamByte_pos_le h fun b q c => writeLiteral_pos_le (s := { s with q := q, consumed := c })

/-- What a block step can do to the queue and the byte counter: nothing, one counted byte in DECODE, or one token that
is not counted. -/
def TokenEffect (s t : State) : Prop :=
  (t.q = s.q ∧ t.consumed = s.consumed) ∨
  (∃ b, s.q = .byte b :: t.q ∧ s.phase = .decode ∧ t.consumed = s.consumed + 1#32 ∧ s.consumed < s.len) ∨
  (∃ tok, s.q = tok :: t.q ∧ t.consumed = s.consumed ∧
    (s.phase = .palload ∨ (s.phase = .decode ∧ (tok = .eos ∨ tok = .err))))

/-- The fetch of DECODE counts the byte it takes, if what is done with the byte leaves queue and counter alone. -/
theorem fetchStreamByte_tokenEffect {s t : State} {k : Byte → State → Result} (hp : s.phase = .decode)
    (hc : s.consumed < s.len) (h : fetchStreamByte s k = .next t)
    (hk : ∀ b u, k b u = .next t → t.q = u.q ∧ t.consumed = u.consumed) : TokenEffect s t := by
  rcases fetchStreamByte_cases h with ⟨-, rfl⟩ | ⟨rest, hq, rfl⟩ | ⟨rest, hq, rfl⟩ | ⟨b, rest, hq, h⟩
  · exact .inl ⟨rfl, rfl⟩
  · exact .inr (.inr ⟨.err, hq, rfl, .inr ⟨hp, .inr rfl⟩⟩)
  · exact .inr (.inr ⟨.eos, hq, rfl, .inr ⟨hp, .inl rfl⟩⟩)
  · obtain ⟨htq, htc⟩ := hk b _ h
    exact .inr (.inl ⟨b, by rw [hq, htq], hp, htc, hc⟩)

theorem decodeStep_tokenEffect {s t : State} (hp : s.phase = .decode) (h : decodeStep s = .next t) :
    TokenEffect s t := by
  rcases decodeStep_cases h with ⟨-, -, rfl⟩ | ⟨-, hc, h⟩ | ⟨-, h⟩
  · exact .inl ⟨rfl, rfl⟩
  · exact fetchStreamByte_tokenEffect hp hc h fun _ _ => execControl_queue
  · rcases payloadStep_cases h with ⟨-, rfl⟩ | ⟨hc, h⟩
    · exact .inl ⟨rfl, rfl⟩
    · exact fetchStreamByte_tokenEffect hp hc h fun _ _ => writeLiteral_queue

theorem endOfBlob_queue {s t : State} (h : endOfBlob s = .next t) : t.q = s.q ∧ t.consumed = s.consumed := by
  rcases endOfBlob_cases h with ⟨-, h⟩ | ⟨-, rfl⟩
  · rw [failLoad_eq] at h; cases h; exact ⟨rfl, rfl⟩
  · exact ⟨rfl, rfl⟩

theorem palloadStep_tokenEffect {s t : State} (hp : s.phase = .palload) (h : palloadStep s = .next t) :
    TokenEffect s t := by
  rcases palloadStep_cases h with ⟨-, rfl⟩ | ⟨rest, hq, h⟩ | ⟨b, rest, hq, rfl⟩ | ⟨rest, hq, h⟩
  · exact .inl ⟨rfl, rfl⟩
  · rw [failLoad_eq] at h; cases h
    exact .inr (.inr ⟨.err, hq, rfl, .inl hp⟩)
  · exact .inr (.inr ⟨.byte b, hq, rfl, .inl hp⟩)
  · obtain ⟨htq, htc⟩ := endOfBlob_queue h
    exact .inr (.inr ⟨.eos, by rw [hq, htq], htc, .inl hp⟩)

/-- Settles O21: only the steps of PALLOAD and DECODE take a token, each through its fetch. -/
theorem bytesAreCountedOnce : Obligations.BytesAreCountedOnce := by
  intro s t h
  rcases blockStep_cases h with ⟨-, rfl⟩ | ⟨hp, h⟩ | ⟨-, rfl⟩ | ⟨hp, h⟩ | ⟨-, rfl⟩
  · exact .inl ⟨rfl, rfl⟩
  · exact palloadStep_tokenEffect hp h
  · exact .inl ⟨rfl, rfl⟩
  · exact decodeStep_tokenEffect hp h
  · exact .inl ⟨rfl, rfl⟩

end Sys2Proof.Machine

/-! PROOFS. A literal run as a whole (40_rle_commands.md R91): the words that a stretch of image entries puts into the
buffer, and the `1 + n` steps that put them there. -/

namespace Sys2Proof.Machine

/-! ### A stretch of image entries in the buffer -/

/-- The buffer with one image entry at an index: a transparent entry leaves it as it is. -/
def Memory.paint (pal : Palette) (m : Memory) (i : Nat) : Option Byte → Memory
  | none => m
  | some idx => m.write i (mapIndex pal idx)

/-- The buffer with a stretch of image entries from an index on. -/
def Memory.paintRow (pal : Palette) : Memory → Nat → Row → Memory
  | m, _, [] => m
  | m, i, e :: r => Memory.paintRow pal (m.paint pal i e) (i + 1) r

theorem Memory.read_paint_same (pal : Palette) (m : Memory) (i : Nat) (e : Option Byte) :
    (m.paint pal i e).read i = e.elim (m.read i) fun idx => some (mapIndex pal idx) := by
  cases e with
  | none => rfl
  | some idx => exact m.read_write_same i _

theorem Memory.read_paint_other (pal : Palette) (m : Memory) {i j : Nat} (e : Option Byte) (h : i ≠ j) :
    (m.paint pal i e).read j = m.read j := by
  cases e with
  | none => rfl
  | some idx => exact m.read_write_other _ h

theorem Memory.read_paintRow_outside (pal : Palette) {r : Row} {i j : Nat} (m : Memory)
    (h : j < i ∨ i + r.length ≤ j) : (m.paintRow pal i r).read j = m.read j := by
  induction r generalizing i m with
  | nil => rfl
  | cons e r ih =>
    rw [List.length_cons] at h
    rw [Memory.paintRow, ih _ (by omega), Memory.read_paint_other _ _ _ (by omega)]

theorem Memory.read_paintRow_inside (pal : Palette) {r : Row} {i k : Nat} (m : Memory) {e : Option Byte}
    (h : r[k]? = some e) :
    (m.paintRow pal i r).read (i + k) = e.elim (m.read (i + k)) fun idx => some (mapIndex pal idx) := by
  induction r generalizing i k m with
  | nil => cases h
  | cons d r ih =>
    rw [Memory.paintRow]
    cases k with
    | zero =>
      cases h
      exact (Memory.read_paintRow_outside pal _ (.inl (Nat.lt_add_one i))).trans (m.read_paint_same pal i e)
    | succ k =>
      rw [Nat.add_comm k, ← Nat.add_assoc, ih _ h, Memory.read_paint_other _ _ _ (by omega)]

/-! ### The payload steps (40_rle_commands.md R92) -/

/-- In DECODE a literal run still owes exactly the payload at the head of the queue, within `LEN` and within `N`. -/
structure State.OwesPayload (s : State) (payload : List Byte) (rest : List Token) : Prop where
  script : s.script = []
  phase : s.phase = .decode
  run : s.run.toNat = payload.length
  queue : s.q = payload.map Token.byte ++ rest
  declared : s.consumed.toNat + payload.length ≤ s.len.toNat
  room : s.pos + payload.length ≤ s.N

/-- What the payload steps of a literal run leave. -/
def State.payloadTaken (s : State) (payload : List Byte) (rest : List Token) : State :=
  { s with
    q := rest
    consumed := s.consumed + BitVec.ofNat 32 payload.length
    pix := s.pix.paintRow s.pal s.pos (payload.map some)
    run := 0#7
    pos := rowFill s.W (s.pos + payload.length) }

section
variable {s : State} {b c : Byte} {payload : List Byte} {rest : List Token}

theorem State.OwesPayload.run_ne_zero (h : s.OwesPayload (b :: payload) rest) : s.run ≠ 0#7 :=
  fun hr => absurd h.run (by simp [hr])

theorem State.OwesPayload.run_ne_one (h : s.OwesPayload (b :: c :: payload) rest) : s.run ≠ 1#7 :=
  fun hr => absurd h.run (by simp [hr])

theorem State.OwesPayload.consumed_lt (h : s.OwesPayload (b :: payload) rest) : s.consumed < s.len :=
  Nat.lt_of_lt_of_le (Nat.lt_add_of_pos_right (Nat.succ_pos _)) h.declared

theorem State.OwesPayload.pos_lt (h : s.OwesPayload (b :: payload) rest) : s.pos < s.N :=
  Nat.lt_of_lt_of_le (Nat.lt_add_of_pos_right (Nat.succ_pos _)) h.room

/-- One payload step takes the first byte. -/
theorem State.OwesPayload.step_eq (h : s.OwesPayload (b :: payload) rest) :
    step s = .next (s.literalTaken b (payload.map Token.byte ++ rest)) :=
  step_payloadByte h.script h.phase h.run_ne_zero h.consumed_lt h.queue h.pos_lt

/-- Before the last byte of a run no row is tested. -/
theorem State.OwesPayload.literalTaken_pos (h : s.OwesPayload (b :: c :: payload) rest) (q : List Token) :
    (s.literalTaken b q).pos = s.pos + 1 := if_neg h.run_ne_one

/-- The run then owes the bytes after the first. -/
theorem State.OwesPayload.tail (h : s.OwesPayload (b :: c :: payload) rest) :
    (s.literalTaken b ((c :: payload).map Token.byte ++ rest)).OwesPayload (c :: payload) rest where
  script := h.script
  phase := h.phase
  run := (run_sub_toNat h.run_ne_zero).trans (by rw [h.run]; rfl)
  queue := rfl
  declared := by
    have hcount := consumed_succ_toNat h.consumed_lt
    have hle := h.declared
    simp only [State.literalTaken, hcount, List.length_cons] at hle ⊢
    exact Nat.le_trans (by omega) hle
  room := by
    have hle := h.room
    rw [h.literalTaken_pos]
    simp only [List.length_cons] at hle ⊢
    exact Nat.le_trans (by omega) hle

/-- The payload steps of a literal run, by induction over the payload; only the last one tests the row. -/
theorem State.OwesPayload.run_eq (h : s.OwesPayload (b :: payload) rest) :
    core.run (b :: payload).length s = .next (s.payloadTaken (b :: payload) rest) := by
  induction payload generalizing s b with
  | nil =>
    have hrun : s.run = 1#7 := BitVec.eq_of_toNat_eq h.run
    rw [List.length_singleton, core_run_next h.step_eq, core_run_zero, State.literalTaken, hrun]
    rfl
  | cons c payload ih =>
    have hcount : s.consumed + 1#32 + BitVec.ofNat 32 (c :: payload).length =
        s.consumed + BitVec.ofNat 32 (b :: c :: payload).length := by
      rw [List.length_cons (a := b), BitVec.ofNat_add, BitVec.add_assoc, BitVec.add_comm 1#32]
    have hend : s.pos + 1 + (c :: payload).length = s.pos + (b :: c :: payload).length := by
      rw [List.length_cons (a := b)]; omega
    rw [List.length_cons, core_run_next h.step_eq, ih h.tail]
    simp only [State.payloadTaken, h.literalTaken_pos, ← hcount, ← hend]
    rfl

end

/-! ### The whole run (40_rle_commands.md R90, R91) -/

/-- What the control step of `LIT n` leaves. -/
def State.literalBegun (s : State) (n : BitVec 7) (q : List Token) : State :=
  { s with
    q := q
    consumed := s.consumed + 1#32
    run := n }

theorem step_literalByte {s : State} {n : BitVec 7} {q : List Token} (hs : s.script = []) (hp : s.phase = .decode)
    (hr : s.run = 0#7) (hn : n ≠ 0#7) (hc : s.consumed < s.len) (hq : s.q = .byte (0#1 ++ n) :: q) :
    step s = .next (s.literalBegun n q) := by
  rw [step_controlByte hs hp hr hc hq, decodeControl_lit hn]
  rfl

/-- Settles O17: the control step leaves a run that owes the payload, and the payload steps paint it. -/
theorem literalRunWritesItsPixels : Obligations.LiteralRunWritesItsPixels := by
  intro s n payload rest hs hp hr hn hlen hq hc hroom
  have hlt : s.consumed < s.len := by rw [BitVec.lt_def]; omega
  have hstep := step_literalByte (q := payload.map Token.byte ++ rest) hs hp hr hn hlt hq
  have hcount : (s.literalBegun n (payload.map Token.byte ++ rest)).consumed.toNat = s.consumed.toNat + 1 :=
    consumed_succ_toNat hlt
  have howes : (s.literalBegun n (payload.map Token.byte ++ rest)).OwesPayload payload rest :=
    ⟨hs, hp, hlen.symm, rfl, by rw [hlen, hcount]; exact hc, by rw [hlen]; exact hroom⟩
  have hrun : core.run (1 + n.toNat) s =
      .next ((s.literalBegun n (payload.map Token.byte ++ rest)).payloadTaken payload rest) := by
    cases payload with
    | nil => exact absurd (BitVec.eq_of_toNat_eq hlen.symm) hn
    | cons b payload => rw [Nat.add_comm, core_run_next hstep, ← hlen, howes.run_eq]
  refine ⟨_, hrun, fun k b hk => ?_, fun i hi => ?_, ?_, ?_, ?_⟩
  · exact Memory.read_paintRow_inside s.pal s.pix (e := some b) (by rw [List.getElem?_map, hk]; rfl)
  · exact Memory.read_paintRow_outside s.pal s.pix (by rwa [List.length_map, hlen])
  · exact congrArg (fun k => rowFill s.W (s.pos + k)) hlen
  · refine (BitVec.toNat_add ..).trans ?_
    rw [hcount, BitVec.toNat_ofNat, hlen]
    have := s.len.isLt
    omega
  · simp only [State.payloadTaken, State.literalBegun, ← hr]

end Sys2Proof.Machine

/-! PROOFS. The informative encoder and the document's loop (95_test_vectors.md part 4, 40_rle_commands.md R95): what a
command does to cursor and buffer, that the loop does just that with a command's bytes, and that the encoder's commands
paint the image they encode. -/

namespace Sys2Proof.Machine

/-! ### One command between two rounds of the loop -/

/-- What a command does to cursor and buffer in a frame, where it neither faults nor depends on `EMPTY_LIT`. -/
def Frame.draw (f : Frame) (c : Nat × Memory) : Command → Option (Nat × Memory)
  | .eol => some (nextRow f.width.toNat c.1, c.2)
  | .skip n => some (c.1 + n.toNat, c.2)
  | .lit payload =>
    if c.1 + payload.length ≤ f.area then
      some (rowFill f.width.toNat (c.1 + payload.length), c.2.paintRow f.pal c.1 (payload.map some))
    else none
  | .lit0 => none
  | .truncatedLit _ _ => none

/-- What a list of commands does to cursor and buffer. -/
def Frame.drawAll (f : Frame) (c : Nat × Memory) (cs : List Command) : Option (Nat × Memory) := cs.foldlM f.draw c

@[simp] theorem Frame.drawAll_nil (f : Frame) (c : Nat × Memory) : f.drawAll c [] = some c := rfl

@[simp] theorem Frame.drawAll_cons (f : Frame) (c : Nat × Memory) (d : Command) (ds : List Command) :
    f.drawAll c (d :: ds) = (f.draw c d).bind (f.drawAll · ds) := List.foldlM_cons

theorem Frame.drawAll_append (f : Frame) (c : Nat × Memory) (cs ds : List Command) :
    f.drawAll c (cs ++ ds) = (f.drawAll c cs).bind (f.drawAll · ds) := List.foldlM_append

theorem Frame.draw_lit {f : Frame} {c : Nat × Memory} {payload : List Byte} (h : c.1 + payload.length ≤ f.area) :
    f.draw c (.lit payload) =
      some (rowFill f.width.toNat (c.1 + payload.length), c.2.paintRow f.pal c.1 (payload.map some)) := if_pos h

/-! ### The loop draws the commands whose bytes it takes (40_rle_commands.md R95) -/

/-- The loop's variables between commands, from cursor and buffer. -/
def Loop.between (c : Nat × Memory) (consumed : Nat) (rest : List Token) : Loop :=
  { pos := c.1, consumed := consumed, buf := c.2, rest := rest }

theorem Loop.nextByte_byte {b : Byte} {rest : List Token} {l : Loop} (h : l.rest = .byte b :: rest)
    (k : Byte → Loop → LoopResult) : l.nextByte k = k b { l with rest := rest, consumed := l.consumed + 1 } := by
  simp only [Loop.nextByte, h]

/-- A literal run whose payload is there, within `LEN` and within the frame, paints it. -/
theorem literalRun_payload {f : Frame} {payload : List Byte} {rest : List Token} {l : Loop}
    (hrest : l.rest = payload.map Token.byte ++ rest) (hlen : l.consumed + payload.length ≤ f.length.toNat)
    (harea : l.pos + payload.length ≤ f.area) :
    literalRun f payload.length l =
      .ok (.between (rowFill f.width.toNat (l.pos + payload.length), l.buf.paintRow f.pal l.pos (payload.map some))
        (l.consumed + payload.length) rest) := by
  induction payload generalizing l with
  | nil =>
    obtain rfl : l.rest = rest := hrest
    rfl
  | cons b payload ih =>
    have hpos : l.pos + 1 + payload.length = l.pos + (b :: payload).length := by rw [List.length_cons]; omega
    have hcount : l.consumed + 1 + payload.length = l.consumed + (b :: payload).length := by
      rw [List.length_cons]; omega
    rw [← hpos, ← hcount]
    rw [List.length_cons] at hlen harea ⊢
    rw [literalRun, if_neg (by omega), Loop.nextByte_byte hrest, if_neg (by dsimp only; omega),
      ih rfl (by dsimp only; omega) (by dsimp only; omega)]
    rfl

/-- The round of a command whose control byte is taken draws the command and takes its payload. -/
theorem loopCommand_draw {f : Frame} {d : Command} {b : Byte} {payload : List Byte} {rest : List Token} {l : Loop}
    {c : Nat × Memory} (hwf : d.wellFormed = true) (hdraw : f.draw (l.pos, l.buf) d = some c)
    (hbytes : d.bytes = b :: payload) (hrest : l.rest = payload.map Token.byte ++ rest)
    (hlen : l.consumed + payload.length ≤ f.length.toNat) :
    loopCommand f b l = .ok (.between c (l.consumed + payload.length) rest) := by
  cases d with
  | eol =>
    cases hbytes; cases hdraw; cases hrest
    rfl
  | skip n =>
    cases hbytes; cases hdraw; cases hrest
    have hflag : runFlag (1#1 ++ n) = true := runFlag_append 1#1 n
    rw [loopCommand, if_pos hflag, count_append, if_neg (bne_iff_ne.1 hwf)]
    rfl
  | lit p =>
    obtain ⟨n, hn, hp⟩ := (Command.lit_wellFormed_iff p).1 hwf
    rw [Command.lit_bytes hp] at hbytes
    cases hbytes
    have hflag : runFlag (0#1 ++ n) = false := runFlag_append 0#1 n
    rw [Frame.draw] at hdraw
    split at hdraw
    · next harea =>
      cases hdraw
      rw [loopCommand, if_neg (Bool.eq_false_iff.1 hflag), count_append, if_neg hn, ← hp]
      exact literalRun_payload hrest hlen harea
    · cases hdraw
  | lit0 => cases hdraw
  | truncatedLit n p => cases hdraw

/-- The loop ends when `LEN` bytes are taken, with fuel or without. -/
theorem commandLoop_done {f : Frame} {l : Loop} (h : f.length.toNat ≤ l.consumed) (fuel : Nat) :
    commandLoop f fuel l = .ok l := by
  cases fuel with
  | zero => rfl
  | succ fuel => exact if_neg (Nat.not_lt.2 h)

theorem commandLoop_byte {f : Frame} {l : Loop} {b : Byte} {rest : List Token} (h : l.consumed < f.length.toNat)
    (hrest : l.rest = .byte b :: rest) (fuel : Nat) :
    commandLoop f (fuel + 1) l =
      (loopCommand f b { l with rest := rest, consumed := l.consumed + 1 }).andThen (commandLoop f fuel) := by
  rw [commandLoop, if_pos h, Loop.nextByte_byte hrest]

/-- The loop over a stream of commands that fills `LEN` draws them all. -/
theorem commandLoop_drawAll {f : Frame} {cs : List Command} {c c' : Nat × Memory} {consumed fuel : Nat}
    (rest : List Token) (hwf : ∀ d ∈ cs, d.wellFormed = true) (hdraw : f.drawAll c cs = some c')
    (hlen : consumed + (assemble cs).length = f.length.toNat) (hfuel : (assemble cs).length ≤ fuel) :
    commandLoop f fuel (.between c consumed ((assemble cs).map Token.byte ++ rest)) =
      .ok (.between c' f.length.toNat rest) := by
  induction cs generalizing c consumed fuel with
  | nil =>
    cases hdraw
    obtain rfl : consumed = f.length.toNat := hlen
    exact commandLoop_done (Nat.le_refl _) fuel
  | cons d cs ih =>
    obtain ⟨hd, hcs⟩ := List.forall_mem_cons.1 hwf
    obtain ⟨c₁, hc₁, hdraw⟩ := Option.bind_eq_some_iff.1 ((f.drawAll_cons c d cs).symm.trans hdraw)
    obtain ⟨b, payload, hbytes⟩ := List.exists_cons_of_length_pos d.bytes_length_pos
    have hcat : assemble (d :: cs) = b :: (payload ++ assemble cs) := by
      rw [assemble, List.flatMap_cons, hbytes]; rfl
    rw [hcat, List.length_cons, List.length_append] at hlen hfuel
    obtain ⟨fuel, rfl⟩ := Nat.exists_eq_add_of_le' (Nat.le_trans (Nat.succ_pos _) hfuel)
    rw [hcat, commandLoop_byte (by simp only [Loop.between]; omega) rfl,
      loopCommand_draw (rest := (assemble cs).map Token.byte ++ rest) hd hc₁ hbytes (by simp)
        (by simp only [Loop.between]; omega)]
    exact ih hcs hdraw (by simp only [Loop.between]; omega) (by omega)

/-! ### The encoder's commands (95_test_vectors.md part 4) -/

/-- An entry lengthens a first command of its own kind and count below 127, or becomes a command of count 1. -/
theorem addEntry_cases (e : Option Byte) (cs : List Command) :
    (∃ n ds, e = none ∧ cs = .skip n :: ds ∧ n ≠ 127#7 ∧ addEntry e cs = .skip (n + 1#7) :: ds) ∨
    (∃ i p ds, e = some i ∧ cs = .lit p :: ds ∧ p.length ≠ 127 ∧ addEntry e cs = .lit (i :: p) :: ds) ∨
    (e = none ∧ addEntry e cs = .skip 1#7 :: cs) ∨
    (∃ i, e = some i ∧ addEntry e cs = .lit [i] :: cs) := by
  unfold addEntry
  split
  · split
    · next n ds =>
      split
      · next hn => exact .inr (.inr (.inl ⟨rfl, by rw [hn]⟩))
      · next hn => exact .inl ⟨n, ds, rfl, rfl, hn, rfl⟩
    · exact .inr (.inr (.inl ⟨rfl, rfl⟩))
  · next i =>
    split
    · next p ds =>
      split
      · exact .inr (.inr (.inr ⟨i, rfl, rfl⟩))
      · next hp => exact .inr (.inl ⟨i, p, ds, rfl, rfl, hp, rfl⟩)
    · exact .inr (.inr (.inr ⟨i, rfl, rfl⟩))

/-- A skip count below 127 does not wrap. -/
theorem skip_succ_toNat {n : BitVec 7} (h : n ≠ 127#7) : (n + 1#7).toNat = n.toNat + 1 := by
  have hne : n.toNat ≠ 127 := fun e => h (BitVec.eq_of_toNat_eq e)
  have := n.isLt
  simp only [BitVec.toNat_add, BitVec.toNat_ofNat]
  omega

theorem addEntry_wellFormed {cs : List Command} (h : ∀ d ∈ cs, d.wellFormed = true) (e : Option Byte) :
    ∀ d ∈ addEntry e cs, d.wellFormed = true := by
  rcases addEntry_cases e cs with ⟨n, ds, -, rfl, hn, hadd⟩ | ⟨i, p, ds, -, rfl, hp, hadd⟩ | ⟨-, hadd⟩ |
    ⟨i, -, hadd⟩ <;> rw [hadd]
  · have hne : n + 1#7 ≠ 0#7 := fun hz => by
      have hcount := skip_succ_toNat hn
      rw [hz] at hcount
      exact absurd hcount (Nat.succ_ne_zero _).symm
    exact List.forall_mem_cons.2 ⟨bne_iff_ne.2 hne, (List.forall_mem_cons.1 h).2⟩
  · obtain ⟨hwf, hds⟩ := List.forall_mem_cons.1 h
    simp only [Command.wellFormed, Bool.and_eq_true, decide_eq_true_eq] at hwf
    refine List.forall_mem_cons.2 ⟨?_, hds⟩
    simp only [Command.wellFormed, Bool.and_eq_true, decide_eq_true_eq, List.length_cons]
    omega
  · exact List.forall_mem_cons.2 ⟨rfl, h⟩
  · exact List.forall_mem_cons.2 ⟨rfl, h⟩

theorem encodeRow_wellFormed (r : Row) : ∀ d ∈ encodeRow r, d.wellFormed = true := by
  have hentries : ∀ d ∈ (dropTrailing r).foldr addEntry [], d.wellFormed = true := by
    induction dropTrailing r with
    | nil => exact List.forall_mem_nil _
    | cons e r ih => exact addEntry_wellFormed ih e
  exact List.forall_mem_append.2 ⟨hentries, List.forall_mem_singleton.2 rfl⟩

/-! ### One row of an image -/

/-- A literal run of one entry paints it; short of the end of a row the cursor is one further. -/
theorem Frame.draw_one {f : Frame} {pos : Nat} (m : Memory) (i : Byte) (harea : pos + 1 ≤ f.area) :
    f.draw (pos, m) (.lit [i]) = some (rowFill f.width.toNat (pos + 1), m.paint f.pal pos (some i)) :=
  Frame.draw_lit harea

/-- Short of the end of a row, an entry put before commands is painted before they are drawn. -/
theorem Frame.drawAll_addEntry {f : Frame} {pos : Nat} (m : Memory) (e : Option Byte) (cs ds : List Command)
    (harea : pos + 1 ≤ f.area) (hrow : (pos + 1) % f.width.toNat ≠ 0) :
    f.drawAll (pos, m) (addEntry e cs ++ ds) = f.drawAll (pos + 1, m.paint f.pal pos e) (cs ++ ds) := by
  rcases addEntry_cases e cs with ⟨n, tl, rfl, rfl, hn, hadd⟩ | ⟨i, p, tl, rfl, rfl, -, hadd⟩ |
    ⟨rfl, hadd⟩ | ⟨i, rfl, hadd⟩ <;> rw [hadd, List.cons_append, Frame.drawAll_cons]
  · have hdraw : f.draw (pos, m) (.skip (n + 1#7)) = f.draw (pos + 1, m.paint f.pal pos none) (.skip n) := by
      simp only [Frame.draw, skip_succ_toNat hn, Memory.paint, Nat.add_assoc, Nat.add_comm 1]
    rw [hdraw, List.cons_append, Frame.drawAll_cons]
  · have hdraw : f.draw (pos, m) (.lit (i :: p)) = f.draw (pos + 1, m.paint f.pal pos (some i)) (.lit p) := by
      simp only [Frame.draw, List.length_cons, List.map_cons, Memory.paintRow, Nat.add_assoc, Nat.add_comm 1]
    rw [hdraw, List.cons_append, Frame.drawAll_cons]
  · rfl
  · rw [Frame.draw_one m i harea, rowFill, if_neg hrow]
    rfl

/-- From inside row `y`, `EOL` goes to the start of row `y + 1`. -/
theorem nextRow_inside {w x : Nat} (y : Nat) (h : x < w) : nextRow w (y * w + x) = (y + 1) * w := by
  rw [nextRow, Nat.add_comm (y * w), Nat.add_mul_div_right _ _ (Nat.zero_lt_of_lt h), Nat.div_eq_of_lt h, Nat.zero_add]

/-- The row-fill decrement keeps the cursor in the row of the pixel just written (40_rle_commands.md R93). -/
theorem nextRow_rowFill {w x : Nat} (y : Nat) (h : x < w) : nextRow w (rowFill w (y * w + x + 1)) = (y + 1) * w := by
  unfold rowFill
  split
  · exact nextRow_inside y h
  · next hmod =>
    refine nextRow_inside y (Nat.lt_of_le_of_ne h fun hx => hmod ?_)
    rw [Nat.add_assoc, show x + 1 = w from hx, ← Nat.succ_mul]
    exact Nat.mul_mod_left _ _

/-- A place in row `y` of a frame is a place in the frame. -/
theorem Frame.inside {f : Frame} {x y : Nat} (hx : x < f.width.toNat) (hy : y < f.height.toNat) :
    y * f.width.toNat + x + 1 ≤ f.area := by
  have hrows : (y + 1) * f.width.toNat ≤ f.area := by
    rw [Frame.area, Nat.mul_comm f.width.toNat]
    exact Nat.mul_le_mul_right _ hy
  rw [Nat.succ_mul] at hrows
  omega

/-- The commands of the entries of a row from column `x` on, and its `EOL`, paint the entries and go to the next row,
if the last entry is not transparent. -/
theorem Frame.drawAll_entries {f : Frame} {x y : Nat} {r : Row} (m : Memory) (hx : x < f.width.toNat)
    (hy : y < f.height.toNat) (hr : x + r.length ≤ f.width.toNat) (hlast : r.getLast? ≠ some none) :
    f.drawAll (y * f.width.toNat + x, m) (r.foldr addEntry [] ++ [.eol]) =
      some ((y + 1) * f.width.toNat, m.paintRow f.pal (y * f.width.toNat + x) r) := by
  induction r generalizing x m with
  | nil => exact congrArg (fun p => some (p, m)) (nextRow_inside y hx)
  | cons e r ih =>
    have harea := Frame.inside hx hy
    cases r with
    | nil =>
      cases e with
      | none => exact absurd rfl hlast
      | some i =>
        have hadd : List.foldr addEntry [] [some i] = [.lit [i]] := rfl
        rw [hadd, List.cons_append, Frame.drawAll_cons, Frame.draw_one m i harea]
        exact congrArg (fun p => some (p, m.paint f.pal (y * f.width.toNat + x) (some i))) (nextRow_rowFill y hx)
    | cons e' r =>
      rw [List.length_cons, List.length_cons] at hr
      have hrow : (y * f.width.toNat + x + 1) % f.width.toNat ≠ 0 := by
        rw [Nat.add_assoc, Nat.mul_add_mod_self_right, Nat.mod_eq_of_lt (by omega)]
        exact Nat.succ_ne_zero x
      rw [List.foldr_cons, Frame.drawAll_addEntry m e _ _ harea hrow]
      exact ih (x := x + 1) _ (by omega) (by rw [List.length_cons]; omega) (by rwa [List.getLast?_cons_cons] at hlast)

/-! ### The whole image -/

theorem Memory.paintRow_append (pal : Palette) (m : Memory) (i : Nat) (r r' : Row) :
    m.paintRow pal i (r ++ r') = (m.paintRow pal i r).paintRow pal (i + r.length) r' := by
  induction r generalizing m i with
  | nil => rfl
  | cons e r ih => rw [List.cons_append, Memory.paintRow, ih, List.length_cons, Nat.add_assoc, Nat.add_comm 1]; rfl

theorem dropTrailing_eq (r : Row) : dropTrailing r = r.rdropWhile Option.isNone := rfl

theorem dropTrailing_length_le (r : Row) : (dropTrailing r).length ≤ r.length := by
  rw [dropTrailing, List.length_reverse, ← r.length_reverse]
  exact List.length_dropWhile_le _ _

theorem dropTrailing_getLast? (r : Row) : (dropTrailing r).getLast? ≠ some none := by
  intro h
  rw [dropTrailing, List.getLast?_reverse] at h
  have hnot := List.head?_dropWhile_not (fun e => e.isNone) r.reverse
  rw [h] at hnot
  exact Bool.noConfusion hnot

/-- The trailing transparent entries of a row paint nothing. -/
theorem Memory.paintRow_dropTrailing (pal : Palette) (m : Memory) (i : Nat) (r : Row) :
    m.paintRow pal i (dropTrailing r) = m.paintRow pal i r := by
  rw [dropTrailing_eq]
  induction r using List.reverseRecOn with
  | nil => rfl
  | append_singleton r e ih =>
    cases e with
    | none => rw [List.rdropWhile_concat_pos _ _ _ rfl, ih, Memory.paintRow_append]; rfl
    | some idx => rw [List.rdropWhile_concat_neg _ _ _ Bool.false_ne_true]

theorem Frame.drawAll_encodeRow {f : Frame} {y : Nat} {r : Row} (m : Memory) (hw : 1 ≤ f.width.toNat)
    (hy : y < f.height.toNat) (hr : r.length = f.width.toNat) :
    f.drawAll (y * f.width.toNat, m) (encodeRow r) =
      some ((y + 1) * f.width.toNat, m.paintRow f.pal (y * f.width.toNat) r) := by
  rw [← Memory.paintRow_dropTrailing]
  exact Frame.drawAll_entries (x := 0) m hw hy (by rw [Nat.zero_add, ← hr]; exact dropTrailing_length_le r)
    (dropTrailing_getLast? r)

/-- The commands of the rows from row `y` on paint the rows, one after the other. -/
theorem Frame.drawAll_rows {f : Frame} {y : Nat} {rows : List Row} (m : Memory) (hw : 1 ≤ f.width.toNat)
    (hy : y + rows.length = f.height.toNat) (hrows : ∀ r ∈ rows, r.length = f.width.toNat) :
    f.drawAll (y * f.width.toNat, m) (rows.flatMap encodeRow) =
      some (f.area, m.paintRow f.pal (y * f.width.toNat) rows.flatten) := by
  induction rows generalizing y m with
  | nil =>
    obtain rfl : y = f.height.toNat := hy
    rw [Frame.area, Nat.mul_comm]
    rfl
  | cons r rows ih =>
    obtain ⟨hr, hrows⟩ := List.forall_mem_cons.1 hrows
    rw [List.length_cons] at hy
    rw [List.flatMap_cons, Frame.drawAll_append, Frame.drawAll_encodeRow m hw (by omega) hr, Option.bind_some,
      ih _ (by omega) hrows, List.flatten_cons, Memory.paintRow_append, hr, Nat.succ_mul]

/-- The entries of an image in one list, row by row. -/
theorem getElem?_flatten_rows {rows : List Row} {w x y : Nat} {r : Row} {e : Option Byte}
    (hrows : ∀ r ∈ rows, r.length = w) (hy : rows[y]? = some r) (hx : r[x]? = some e) :
    rows.flatten[y * w + x]? = some e := by
  induction rows generalizing y with
  | nil => cases hy
  | cons r' rows ih =>
    obtain ⟨hr', hrows⟩ := List.forall_mem_cons.1 hrows
    rw [List.flatten_cons]
    cases y with
    | zero =>
      cases hy
      rw [Nat.zero_mul, Nat.zero_add, List.getElem?_append_left (List.getElem?_eq_some_iff.1 hx).1, hx]
    | succ y =>
      rw [List.getElem?_append_right (by rw [hr', Nat.succ_mul]; omega), ← ih hrows hy]
      congr 1
      rw [hr', Nat.succ_mul]
      omega

/-- A frame not to be flipped is its loop's result on the filled buffer (42_frame_control.md R127). -/
theorem decodeFrame_eq_ok {f : Frame} {tokens : List Token} {l : Loop} (hf : f.isFlipped ≠ 0#32)
    (h : commandLoop f f.length.toNat (.between (0, Memory.tabulate f.area fun _ => some f.fill) 0 tokens) = .ok l) :
    decodeFrame f tokens = .ok l := by
  rw [Loop.between] at h
  simp only [decodeFrame, h, LoopResult.andThen, if_neg hf]

/-- Settles O55: the loop draws the encoder's commands, and these paint the image on the filled buffer. -/
theorem encodedImageDecodesBack : Obligations.EncodedImageDecodesBack := by
  intro f rows rest hw hf hheight hrows hlen
  have hwf : ∀ d ∈ rows.flatMap encodeRow, d.wellFormed = true := by
    intro d hd
    obtain ⟨r, -, hd⟩ := List.mem_flatMap.1 hd
    exact encodeRow_wellFormed r d hd
  have hdraw := Frame.drawAll_rows (y := 0) (Memory.tabulate f.area fun _ => some f.fill) hw (by omega) hrows
  rw [Nat.zero_mul] at hdraw
  have hloop := commandLoop_drawAll rest hwf hdraw ((Nat.zero_add _).trans hlen) (Nat.le_of_eq hlen)
  refine ⟨_, decodeFrame_eq_ok hf hloop, rfl, rfl, rfl, fun y x r e hy hx => ?_⟩
  have hin : y * f.width.toNat + x < f.area := by
    have hr := hrows r (List.mem_of_getElem? hy)
    have hxlt := (List.getElem?_eq_some_iff.1 hx).1
    have hylt := (List.getElem?_eq_some_iff.1 hy).1
    exact Frame.inside (hr ▸ hxlt) (hheight ▸ hylt)
  have hread := Memory.read_paintRow_inside f.pal (i := 0) (Memory.tabulate f.area fun _ => some f.fill)
    (getElem?_flatten_rows hrows hy hx)
  rw [Nat.zero_add, Memory.read_tabulate, if_pos hin] at hread
  refine hread.trans ?_
  cases e <;> rfl

end Sys2Proof.Machine

/-! PROOFS. The palette mapper (41_palette_mapper.md R102 to R110): the command that begins a load, the PALLOAD step token
by token, the whole load by induction over the blob, and what keeps the loaded palette. -/

namespace Sys2Proof.Machine

/-! ### The commands (41_palette_mapper.md R103) -/

/-- Settles O22: the phase is tested, then the held palette. -/
theorem palLoadBeginsALoad : Obligations.PalLoadBeginsALoad := by
  intro s
  rw [exec_palLoad, execPalLoad]
  refine ⟨fun hp hv => ?_, fun hp => if_pos hp, fun hp hv => ?_⟩
  · exact (if_neg (not_not.2 hp)).trans (if_neg (Bool.eq_false_iff.1 hv))
  · exact (if_neg (not_not.2 hp)).trans (if_pos hv)

/-- Settles O30: a refused command writes `REFUSAL` only, and an accepted one the fields of its own exception. -/
theorem hostCommandFrame : Obligations.HostCommandFrame := by
  rintro i s t (rfl | rfl | rfl) h
  · rcases execPalLoad_cases h with ⟨r, -, rfl⟩ | ⟨-, -, rfl⟩ <;> simp
  · rcases execStart_cases h with ⟨r, -, rfl⟩ | ⟨-, -, -, -, -, rfl⟩ <;> simp
  · rcases execAck_cases h with ⟨rfl, -, -⟩ | ⟨-, rfl⟩ <;> simp

/-! ### The PALLOAD step (41_palette_mapper.md R104, R105) -/

section
variable {s : State} {rest : List Token}

theorem step_palload (hs : s.script = []) (hp : s.phase = .palload) : step s = palloadStep s := by
  rw [step_nil hs, blockStep_palload hp]

theorem step_blobByte {b : Byte} (hs : s.script = []) (hp : s.phase = .palload) (hq : s.q = .byte b :: rest) :
    step s = .next (stageByte b { s with q := rest }) :=
  (step_palload hs hp).trans (takeToken_cons hq)

theorem step_blobErr (hs : s.script = []) (hp : s.phase = .palload) (hq : s.q = .err :: rest) :
    step s = failLoad .ioFailure { s with q := rest } :=
  (step_palload hs hp).trans (takeToken_cons hq)

theorem step_blobEnd (hs : s.script = []) (hp : s.phase = .palload) (hq : s.q = .eos :: rest) :
    step s = endOfBlob { s with q := rest } :=
  (step_palload hs hp).trans (takeToken_cons hq)

theorem endOfBlob_whole (h : s.pcnt = 768) :
    endOfBlob s = .next { s with pal := commitPalette s.pstage, palValid := true, phase := .idle } :=
  if_neg (not_not.2 h)

theorem endOfBlob_wrongSize (h : s.pcnt ≠ 768) : endOfBlob s = failLoad .invalidPaletteSize s :=
  if_pos h

end

/-- Settles O23: a byte is staged, and `Err` fails the load before anything is counted. -/
theorem blobBytesAreStaged : Obligations.BlobBytesAreStaged := by
  intro s rest hs hp
  refine ⟨fun b hq => ?_, fun hq => ?_⟩
  · exact ⟨_, step_blobByte hs hp hq, stageByte_get b { s with q := rest }, rfl, rfl⟩
  · rw [step_blobErr hs hp hq, failLoad_eq]
    exact ⟨_, rfl, rfl, rfl, rfl, rfl, rfl, rfl, rfl, rfl, rfl, rfl, rfl, rfl⟩

/-- Settles O24: `PCNT` picks the commit, entry by entry, or the failed load. -/
theorem endOfBlobChecksTheSize : Obligations.EndOfBlobChecksTheSize := by
  intro s rest hs hp hq
  rw [step_blobEnd hs hp hq]
  refine ⟨fun hcnt => ?_, fun hcnt => ?_⟩
  · refine ⟨_, endOfBlob_whole (s := { s with q := rest }) hcnt, fun i hi => ?_, rfl⟩
    simp only [commitPalette_get s.pstage i hi, and_self]
  · rw [endOfBlob_wrongSize (s := { s with q := rest }) hcnt, failLoad_eq]
    exact ⟨_, rfl, rfl, rfl, rfl, rfl, rfl, rfl, rfl, rfl, rfl, rfl, rfl, rfl⟩

/-! ### The whole load (41_palette_mapper.md R102, R104 to R106) -/

/-- A load in progress that has taken exactly these blob bytes: they are counted up to 769, and the first 768 of them
are staged in order. -/
structure State.Staged (s : State) (taken : List Byte) : Prop where
  script : s.script = []
  phase : s.phase = .palload
  counted : s.pcnt = min taken.length 769
  staged : ∀ k (h : k < 768), k < taken.length → taken[k]? = some s.pstage[k]

section
variable {s : State} {taken blob : List Byte} {rest : List Token}

/-- One more byte is counted and staged behind those taken before. -/
theorem State.Staged.byte (h : s.Staged taken) (b : Byte) (rest : List Token) :
    (stageByte b { s with q := rest }).Staged (taken ++ [b]) where
  script := h.script
  phase := h.phase
  counted := by
    rw [stageByte_pcnt, List.length_append, List.length_singleton, h.counted]
    split <;> omega
  staged k hk hlt := by
    have hcnt := h.counted
    rw [List.length_append, List.length_singleton] at hlt
    rw [stageByte_get b { s with q := rest } k hk]
    by_cases hold : k < taken.length
    · rw [if_neg (show k ≠ s.pcnt by omega), List.getElem?_append_left hold]
      exact h.staged k hk hold
    · obtain rfl : k = taken.length := by omega
      rw [if_pos (show taken.length = s.pcnt by omega), List.getElem?_concat_length]

/-- The bytes of a blob are taken one a step, by induction over the blob; `FAULT` keeps its value. -/
theorem State.Staged.run_bytes (h : s.Staged taken) (hq : s.q = blob.map Token.byte ++ rest) :
    ∃ t : State, core.run blob.length s = .next t ∧ t.Staged (taken ++ blob) ∧ t.q = rest ∧
      t.faultKind = s.faultKind := by
  induction blob generalizing s taken with
  | nil => exact ⟨s, rfl, by rwa [List.append_nil], hq, rfl⟩
  | cons b blob ih =>
    obtain ⟨t, hrun, hstaged, ht⟩ := ih (h.byte b (blob.map Token.byte ++ rest)) rfl
    refine ⟨t, ?_, by rwa [List.append_cons], ht⟩
    exact (core_run_next (step_blobByte h.script h.phase hq)).trans hrun

/-- `PCNT` shows a whole blob, and only a whole blob, as 768. -/
theorem State.Staged.pcnt_eq_iff (h : s.Staged blob) : s.pcnt = 768 ↔ blob.length = 768 := by
  rw [h.counted]
  omega

/-- The palette committed from a whole blob has its entries from the blob's byte triples. -/
theorem State.Staged.committed_entry (h : s.Staged blob) (hlen : blob.length = 768) (i : Nat) (hi : i < 256) :
    blob[3 * i]? = some (commitPalette s.pstage)[i].b ∧ blob[3 * i + 1]? = some (commitPalette s.pstage)[i].g ∧
      blob[3 * i + 2]? = some (commitPalette s.pstage)[i].r := by
  rw [commitPalette_get s.pstage i hi]
  exact ⟨h.staged _ (by omega) (by omega), h.staged _ (by omega) (by omega), h.staged _ (by omega) (by omega)⟩

end

/-- Settles O25: the bytes are staged by induction over the blob, and `End` commits the stage or fails the load. -/
theorem wholeBlobBecomesThePalette : Obligations.WholeBlobBecomesThePalette := by
  intro s blob rest hs hp hcnt hq
  have hempty : s.Staged [] := ⟨hs, hp, hcnt, nofun⟩
  obtain ⟨u, hrun, hstaged, huq, hfault⟩ := hempty.run_bytes hq
  rw [List.nil_append] at hstaged
  have hend := step_blobEnd hstaged.script hstaged.phase huq
  rw [core_run_add hrun]
  by_cases hlen : blob.length = 768
  · rw [endOfBlob_whole (s := { u with q := rest }) (hstaged.pcnt_eq_iff.2 hlen)] at hend
    rw [core_run_next hend, core_run_zero]
    exact ⟨_, rfl, rfl, fun _ => ⟨rfl, rfl, hfault, hstaged.committed_entry hlen⟩, absurd hlen⟩
  · rw [endOfBlob_wrongSize (s := { u with q := rest }) (mt hstaged.pcnt_eq_iff.1 hlen), failLoad_eq] at hend
    rw [core_run_next hend, core_run_zero]
    exact ⟨_, rfl, rfl, fun h => absurd h hlen, fun _ => ⟨rfl, rfl, rfl⟩⟩

/-! ### The map (41_palette_mapper.md R108) -/

/-- Joining two bit vectors is adding: what stands low is below the other's weight. -/
theorem toNat_append_eq_add {m n : Nat} (x : BitVec m) (y : BitVec n) :
    (x ++ y).toNat = x.toNat * 2 ^ n + y.toNat := by
  rw [BitVec.toNat_append, ← Nat.shiftLeft_add_eq_or_of_lt y.isLt, Nat.shiftLeft_eq]

/-- Settles O26: the four bytes joined, and the low one is full opacity. -/
theorem mapIndexPacksOpaqueRgba : Obligations.MapIndexPacksOpaqueRgba := by
  intro pal idx h
  simp only [mapIndex, toNat_append_eq_add, show Config.alphaOpaque.toNat = 0xFF from rfl]
  ring

/-! ### The palette held (41_palette_mapper.md R110) -/

/-- Both states hold the same palette table, valid or not. -/
def SamePalette (t s : State) : Prop := t.pal = s.pal ∧ t.palValid = s.palValid

theorem SamePalette.refl (s : State) : SamePalette s s := ⟨rfl, rfl⟩

/-- Outside PALLOAD no block step writes it. -/
theorem blockStep_samePalette {s t : State} (h : blockStep s = .next t) (hp : s.phase ≠ .palload) :
    SamePalette t s := by
  rcases blockStep_cases h with ⟨-, rfl⟩ | ⟨hload, -⟩ | ⟨-, rfl⟩ | ⟨-, h⟩ | ⟨-, rfl⟩
  · exact .refl _
  · exact absurd hload hp
  · exact .refl _
  · rcases decodeStep_shape h with ⟨k, q, c, rfl⟩ | rfl | ⟨q, c, pos, run, rfl⟩ | ⟨-, q, c, pos, run, w, rfl⟩
    · exact .refl _
    · exact .refl _
    · exact .refl _
    · exact .refl _
  · exact .refl _

/-- No command writes it, in any state. -/
theorem commandWrite_samePalette {v : Word} {s t : State} (h : commandWrite v s = .next t) : SamePalette t s := by
  unfold commandWrite at h
  split at h
  · next i hi =>
    have hcmd : i = .palLoad ∨ i = .start ∨ i = .ack := (decodeCommand_cases hi).imp And.right (.imp And.right And.right)
    obtain ⟨hpal, hvalid, -⟩ := hostCommandFrame i s t hcmd h
    exact ⟨hpal, hvalid⟩
  · cases h; exact .refl _

theorem regWrite_samePalette {n : Nat} {v : Word} {s t : State} (h : regWrite n v s = .next t) : SamePalette t s := by
  rcases regWrite_cases h with ⟨r, -, rfl⟩ | ⟨-, -, rfl⟩
  · exact .refl _
  · exact ⟨s.setReg_pal n v, s.setReg_palValid n v⟩

theorem hostOperation_samePalette {op : HostOp} {s t : State} (h : hostOperation op s = .next t)
    (hp : s.phase ≠ .palload) (hreset : op ≠ .reset) : SamePalette t s := by
  rcases hostOperation_cases h with ⟨n, -, rfl⟩ | ⟨v, -, h⟩ | ⟨n, v, -, -, h⟩ | ⟨i, -, h⟩ | ⟨tok, -, rfl⟩ | ⟨-, rfl⟩ |
    ⟨hop, -⟩ | ⟨-, h⟩ | ⟨-, rfl⟩
  · exact .refl _
  · exact commandWrite_samePalette h
  · exact regWrite_samePalette h
  · rcases pixRead_cases h with ⟨-, -, w, -, rfl⟩ | ⟨-, rfl⟩ <;> exact .refl _
  · exact .refl _
  · exact .refl _
  · exact absurd hop hreset
  · exact blockStep_samePalette h hp
  · exact .refl _

/-- Settles O27: only a PALLOAD step could write it, and the invariant has no palette held there. -/
theorem loadedPaletteIsImmutable : Obligations.LoadedPaletteIsImmutable := by
  intro s t hinv hv hreset h
  have hp : s.phase ≠ .palload := fun hload => nomatch hv.symm.trans (hinv.loading hload)
  obtain ⟨hpal, hvalid⟩ : SamePalette t s := by
    rcases step_cases h with ⟨h, -⟩ | ⟨op, ops, hs, h⟩
    · exact blockStep_samePalette h hp
    · have hop : op ≠ .reset := by rintro rfl; exact hreset (by rw [hs]; rfl)
      exact hostOperation_samePalette (s := { s with script := ops }) h hp hop
  exact ⟨hpal, hvalid.trans hv⟩

end Sys2Proof.Machine

/-! PROOFS. Frame control (42_frame_control.md R112 to R126): the commands `START` and `ACK`, the FILL and FLIP steps, row
reversal, and what keeps the output in `DONE`. -/

namespace Sys2Proof.Machine

/-! ### The commands (42_frame_control.md R115, R126) -/

theorem State.zeroArea_iff (s : State) : s.W = 0 ∨ s.H = 0 ↔ s.desc.width = 0#32 ∨ s.desc.height = 0#32 :=
  or_congr (BitVec.toNat_inj (y := 0#32)) (BitVec.toNat_inj (y := 0#32))

/-- Settles O28: each case decides the tests of the meaning in the order they are made. -/
theorem startChecksThenBeginsTheFrame : Obligations.StartChecksThenBeginsTheFrame := by
  intro s
  rw [exec_start, execStart]
  refine ⟨fun hp hv hw hh hn => ?_, fun hp => if_pos hp, fun hp hv => ?_, fun hp hv ha => ?_,
    fun hp hv hw hh hn => ?_⟩ <;> rw [if_neg (not_not.2 hp)]
  · rw [if_neg (ne_false_of_eq_true hv), if_neg (s.zeroArea_iff.not.2 (not_or.2 ⟨hw, hh⟩))]
    exact if_neg (Nat.not_lt.2 hn)
  · exact if_pos hv
  · rw [if_neg (ne_false_of_eq_true hv)]
    exact if_pos (s.zeroArea_iff.2 ha)
  · rw [if_neg (ne_false_of_eq_true hv), if_neg (s.zeroArea_iff.not.2 (not_or.2 ⟨hw, hh⟩))]
    exact if_pos hn

/-- Settles O29: the meaning has two branches, the return to `IDLE` and the refusal. -/
theorem ackReleasesTheBlock : Obligations.AckReleasesTheBlock := by
  intro s
  rw [exec_ack, execAck]
  refine ⟨fun hp => ⟨s.released, if_pos hp, rfl, rfl, rfl, rfl⟩, fun hdone hfault => ?_⟩
  exact if_neg (not_or.2 ⟨hdone, hfault⟩)

/-! ### The FILL and FLIP steps (42_frame_control.md R119, R122) -/

/-- What the FILL step leaves. -/
def State.afterFill (s : State) : State :=
  { s with pix := Memory.tabulate s.N fun _ => some s.fill, phase := .decode }

theorem step_fill {s : State} (hs : s.script = []) (hp : s.phase = .fill) : step s = .next s.afterFill := by
  rw [step_nil hs]
  simp only [blockStep, hp, fillStep, State.afterFill]

/-- Settles O31: the tabulated buffer reads as the fill colour below `N`. -/
theorem fillInitialisesEveryPixel : Obligations.FillInitialisesEveryPixel := by
  intro s hs hp
  refine ⟨_, step_fill hs hp, rfl, fun i hi => ?_, rfl⟩
  rw [State.afterFill, Memory.read_tabulate, if_pos hi]

/-- Row reversal of the index of column `x` in row `y`. -/
theorem mirror_row_column {w x : Nat} (h y : Nat) (hx : x < w) : mirror w h (y * w + x) = (h - 1 - y) * w + x := by
  have hrow : (y * w + x) / w = y := by
    rw [Nat.add_comm, Nat.add_mul_div_right _ _ (Nat.zero_lt_of_lt hx), Nat.div_eq_of_lt hx, Nat.zero_add]
  have hcolumn : (y * w + x) % w = x := by rw [Nat.mul_add_mod', Nat.mod_eq_of_lt hx]
  rw [mirror, hrow, hcolumn]

/-- A place in row `y` is a place in the buffer. -/
theorem State.place_lt_N {s : State} {x y : Nat} (hx : x < s.W) (hy : y < s.H) : y * s.W + x < s.N :=
  Frame.inside (f := s.frame) hx hy

/-- What the FLIP step leaves. -/
def State.afterFlip (s : State) : State :=
  { s with pix := orient s, phase := .done }

theorem step_flip {s : State} (hs : s.script = []) (hp : s.phase = .flip) : step s = .next s.afterFlip := by
  rw [step_nil hs]
  simp only [blockStep, hp, flipStep, State.afterFlip]

theorem orient_mirrored {s : State} (hf : s.desc.isFlipped = 0#32) :
    orient s = Memory.tabulate s.N fun i => s.pix.read (mirror s.W s.H i) :=
  if_neg (by simp [State.flipped, hf])

theorem orient_kept {s : State} (hf : s.desc.isFlipped ≠ 0#32) : orient s = s.pix :=
  if_pos (by simp [State.flipped, hf])

/-- Settles O32: `isFlipped` picks the buffer, and the mirrored one reads at the reversed row. -/
theorem flipReversesRowsWhenNotFlipped : Obligations.FlipReversesRowsWhenNotFlipped := by
  intro s hs hp
  refine ⟨_, step_flip hs hp, rfl, fun hf y x hy hx => ?_, fun hf => ?_, rfl⟩
  · rw [State.afterFlip, orient_mirrored hf, Memory.read_tabulate, if_pos (s.place_lt_N hx hy), mirror_row_column _ _ hx]
  · exact orient_kept hf

/-! ### Row reversal (42_frame_control.md R123) -/

/-- Settles O33: an index is a row and a column; row reversal keeps the column and its row is `h - 1 - y`. -/
theorem rowReversalIsAnInvolution : Obligations.RowReversalIsAnInvolution := by
  intro w h i hi
  have hw : 0 < w := Nat.pos_of_ne_zero (by rintro rfl; simp at hi)
  have hlt := mirror_lt hi
  have hx : i % w < w := Nat.mod_lt i hw
  have hy : i / w < h := Nat.div_lt_of_lt_mul hi
  have hmirror : mirror w h i = (h - 1 - i / w) * w + i % w := rfl
  have hindex : i / w * w + i % w = i := Nat.div_add_mod' i w
  generalize i / w = y at hy hmirror hindex ⊢
  refine ⟨hlt, ?_, ?_, fun hone => ?_, fun hmiddle => ?_⟩
  · rw [hmirror, mirror_row_column h _ hx, show h - 1 - (h - 1 - y) = y by omega, hindex]
  · rw [hmirror, Nat.mul_add_mod', Nat.mod_mod]
  · rw [hmirror, show h - 1 - y = y by omega, hindex]
  · rw [hmirror, show h - 1 - y = y by omega, hindex]

/-! ### The output in `DONE` (42_frame_control.md R125) -/

theorem commandWrite_done {v : Word} {s t : State} (h : commandWrite v s = .next t) (hp : s.phase = .done)
    (hv : v ≠ 3#32) : ∃ r, t = s.refusedWith r := by
  have hidle : s.phase ≠ .idle := by rw [hp]; decide
  rcases commandWrite_cases h with ⟨-, h⟩ | ⟨-, h⟩ | ⟨h3, -⟩ | rfl
  · rcases execPalLoad_cases h with ⟨r, -, rfl⟩ | ⟨hp', -⟩
    · exact ⟨r, rfl⟩
    · exact absurd hp' hidle
  · rcases execStart_cases h with ⟨r, -, rfl⟩ | ⟨hp', -⟩
    · exact ⟨r, rfl⟩
    · exact absurd hp' hidle
  · exact absurd h3 hv
  · exact ⟨_, rfl⟩

/-- In `DONE` a host operation other than `ACK` and reset changes at most `REFUSAL` and the host's own side. -/
theorem hostOperation_done_shape {op : HostOp} {s t : State} (h : hostOperation op s = .next t) (hp : s.phase = .done)
    (hreset : op ≠ .reset) (hack : op ≠ .regWrite 0 3#32) :
    ∃ refusal q replies, t = { s with refusal := refusal, q := q, replies := replies } := by
  rcases hostOperation_cases h with ⟨n, -, rfl⟩ | ⟨v, rfl, h⟩ | ⟨n, v, -, -, h⟩ | ⟨i, -, h⟩ | ⟨tok, -, rfl⟩ | ⟨-, rfl⟩ |
    ⟨hop, -⟩ | ⟨-, h⟩ | ⟨-, rfl⟩
  · exact ⟨_, _, _, rfl⟩
  · obtain ⟨r, rfl⟩ := commandWrite_done h hp fun hv => hack (by rw [hv])
    exact ⟨_, _, _, rfl⟩
  · rcases regWrite_cases h with ⟨r, -, rfl⟩ | ⟨hp', -⟩
    · exact ⟨_, _, _, rfl⟩
    · exact absurd (hp.symm.trans hp') (by decide)
  · rcases pixRead_cases h with ⟨-, -, w, -, rfl⟩ | ⟨-, rfl⟩ <;> exact ⟨_, _, _, rfl⟩
  · exact ⟨_, _, _, rfl⟩
  · exact ⟨_, _, _, rfl⟩
  · exact absurd hop hreset
  · rw [blockStep_rest (.inr (.inl hp))] at h
    cases h; exact ⟨_, _, _, rfl⟩
  · exact ⟨_, _, _, rfl⟩

/-- Settles O51: the block rests in `DONE`, and the host's operation writes nothing of the output. -/
theorem outputIsImmutableInDone : Obligations.OutputIsImmutableInDone := by
  intro s t h hp hreset hack
  rcases step_cases h with ⟨h, -⟩ | ⟨op, ops, hs, h⟩
  · rw [blockStep_rest (.inr (.inl hp))] at h
    cases h
    exact ⟨hp, fun _ => rfl, rfl, rfl, rfl⟩
  · rw [hs] at hreset hack
    obtain ⟨refusal, q, replies, rfl⟩ := hostOperation_done_shape (s := { s with script := ops }) h hp
      (fun e => hreset (congrArg some e)) (fun e => hack (congrArg some e))
    exact ⟨hp, fun _ => rfl, rfl, rfl, rfl⟩

end Sys2Proof.Machine

/-! PROOFS. The block and the frame function (40_rle_commands.md R95, 42_frame_control.md R127): what the document's loop
still has to do from a state of DECODE, that each step of the block does its share of it, and by induction over the
bytes not yet taken that the block ends where the function ends. -/

namespace Sys2Proof.Machine

/-! ### The loop's variables in the block's registers -/

/-- The variables of the document's loop as the block holds them. -/
def State.loop (s : State) : Loop :=
  { pos := s.pos, consumed := s.consumed.toNat, buf := s.pix, rest := s.q }

/-- What the document's loop still has to do from a state of DECODE: the literal run the block is in, if it is in one,
and then the commands after it. -/
def State.remaining (f : Frame) (fuel : Nat) (s : State) : LoopResult :=
  (if s.run = 0#7 then .ok s.loop else literalRun f s.run.toNat s.loop).andThen (commandLoop f fuel)

/-- The orientation at the end of the frame function (42_frame_control.md R122, R127). -/
def Frame.orientLoop (f : Frame) (l : Loop) : LoopResult :=
  if f.isFlipped = 0#32 then
    .ok { l with buf := Memory.tabulate f.area fun i => l.buf.read (mirror f.width.toNat f.height.toNat i) }
  else .ok l

theorem decodeFrame_eq (f : Frame) (tokens : List Token) :
    decodeFrame f tokens =
      (commandLoop f f.length.toNat
        (.between (0, Memory.tabulate f.area fun _ => some f.fill) 0 tokens)).andThen f.orientLoop := rfl

/-- The block in DECODE, with a silent host, `n` bytes of the frame `f` not yet taken. -/
structure State.Decoding (f : Frame) (n : Nat) (s : State) : Prop where
  script : s.script = []
  phase : s.phase = .decode
  frame : s.frame = f
  width : 1 ≤ f.width.toNat
  left : s.consumed.toNat + n = f.length.toNat

/-- Where a state of the frame `f` is with respect to a result of the document's loop, the count bounding the bytes that
the block may still take: it waits for a token, it is in the fault, the decode has ended, or it is in DECODE and has
left to do what gives the result. -/
inductive State.Leads (f : Frame) : Nat → State → LoopResult → Prop where
  | waiting {n : Nat} {s : State} (phase : s.phase = .decode) (queue : s.q = []) (rest : step s = .next s) :
      Leads f n s (.starved s.loop)
  | faulted {n : Nat} (s : State) (k : FaultKind) (script : s.script = []) : Leads f n (s.faulted k) (.fault k s.loop)
  | ended {n : Nat} {s : State} (script : s.script = []) (phase : s.phase = .flip) (frame : s.frame = f)
      (taken : s.consumed.toNat = f.length.toNat) : Leads f n s (.ok s.loop)
  | decoding {n fuel : Nat} {s : State} (h : s.Decoding f n) (hfuel : n ≤ fuel) :
      Leads f (n + 1) s (s.remaining f fuel)

section
variable {f : Frame} {n fuel : Nat} {s : State}

theorem State.Leads.between (h : s.Decoding f n) (hr : s.run = 0#7) (hfuel : n ≤ fuel) :
    s.Leads f (n + 1) (commandLoop f fuel s.loop) := by
  have hleads := State.Leads.decoding h hfuel
  rw [State.remaining, if_pos hr] at hleads
  exact hleads

theorem State.Leads.inRun (h : s.Decoding f n) (hr : s.run ≠ 0#7) (hfuel : n ≤ fuel) :
    s.Leads f (n + 1) ((literalRun f s.run.toNat s.loop).andThen (commandLoop f fuel)) := by
  have hleads := State.Leads.decoding h hfuel
  rw [State.remaining, if_neg hr] at hleads
  exact hleads

end

/-! ### The meanings of the control bytes against the rounds of the loop -/

theorem loopCommand_skip {n : BitVec 7} (h : n ≠ 0#7) (f : Frame) (l : Loop) :
    loopCommand f (1#1 ++ n) l = .ok { l with pos := l.pos + n.toNat } := by
  have hflag : runFlag (1#1 ++ n) = true := runFlag_append 1#1 n
  rw [loopCommand, if_pos hflag, count_append, if_neg h]

theorem loopCommand_lit {n : BitVec 7} (h : n ≠ 0#7) (f : Frame) (l : Loop) :
    loopCommand f (0#1 ++ n) l = literalRun f n.toNat l := by
  have hflag : runFlag (0#1 ++ n) = false := runFlag_append 0#1 n
  rw [loopCommand, if_neg (Bool.eq_false_iff.1 hflag), count_append, if_neg h]

/-- The reserved byte, by `EMPTY_LIT` (40_rle_commands.md R94): its fault, or the cursor where the loop has it. -/
theorem execLit0_emptyRun {s : State} (hw : 1 ≤ s.W) :
    (execLit0 s = .next (s.faulted .reservedCommand) ∧ emptyRun s.frame s.loop = .fault .reservedCommand s.loop) ∨
    ∃ p, execLit0 s = .next { s with pos := p } ∧ emptyRun s.frame s.loop = .ok { s.loop with pos := p } := by
  obtain ⟨hfault, hnop, hdecrement⟩ := reservedByteFollowsEmptyLit s
  have hframe : s.frame.emptyLit = s.params.emptyLit := rfl
  cases he : s.params.emptyLit with
  | fault => exact .inl ⟨hfault he, by simp only [emptyRun, hframe, he]⟩
  | nop => exact .inr ⟨s.pos, hnop he, by simp only [emptyRun, hframe, he]; rfl⟩
  | decrement =>
    obtain ⟨hstart, hback, hinside⟩ := hdecrement he hw
    simp only [emptyRun, hframe, he]
    by_cases hrow : s.pos % s.W = 0
    · by_cases hpos : s.pos = 0
      · exact .inl ⟨hstart hrow hpos, (if_pos hrow).trans (if_pos hpos)⟩
      · exact .inr ⟨_, hback hrow hpos, (if_pos hrow).trans (if_neg hpos)⟩
    · exact .inr ⟨s.pos, hinside hrow, if_neg hrow⟩

/-- The meaning of a control byte does what the round of the loop begins with: it raises the round's fault, it moves the
cursor and ends the round, or it begins the round's literal run. -/
theorem execControl_loopCommand {s : State} (hw : 1 ≤ s.W) (b : Byte) :
    (∃ k, exec (decodeControl b) s = .next (s.faulted k) ∧ loopCommand s.frame b s.loop = .fault k s.loop) ∨
    (∃ p, exec (decodeControl b) s = .next { s with pos := p } ∧
      loopCommand s.frame b s.loop = .ok { s.loop with pos := p }) ∨
    (∃ c, c ≠ 0#7 ∧ exec (decodeControl b) s = .next { s with run := c } ∧
      loopCommand s.frame b s.loop = literalRun s.frame c.toNat s.loop) := by
  rcases controlByte_cases b with rfl | ⟨c, hc, rfl⟩ | rfl | ⟨c, hc, rfl⟩
  · exact .inr (.inl ⟨_, execEol_next hw, rfl⟩)
  · rw [decodeControl_skip hc, loopCommand_skip hc]
    exact .inr (.inl ⟨_, rfl, rfl⟩)
  · rcases execLit0_emptyRun hw with hfault | hmove
    · exact .inl ⟨_, hfault⟩
    · exact .inr (.inl hmove)
  · rw [decodeControl_lit hc, loopCommand_lit hc]
    exact .inr (.inr ⟨c, hc, rfl, rfl⟩)

section
variable {f : Frame} {n fuel : Nat} {s : State}

theorem State.Decoding.execControl_leads (h : s.Decoding f n) (hr : s.run = 0#7) (hfuel : n ≤ fuel) (b : Byte) :
    ∃ t, exec (decodeControl b) s = .next t ∧
      t.Leads f (n + 1) ((loopCommand f b s.loop).andThen (commandLoop f fuel)) := by
  obtain ⟨hscript, hphase, rfl, hwidth, hleft⟩ := h
  rcases execControl_loopCommand hwidth b with ⟨k, hexec, hloop⟩ | ⟨p, hexec, hloop⟩ | ⟨c, hc, hexec, hloop⟩ <;>
    refine ⟨_, hexec, ?_⟩ <;> rw [hloop]
  · exact .faulted s k hscript
  · exact .between (s := { s with pos := p }) ⟨hscript, hphase, rfl, hwidth, hleft⟩ hr hfuel
  · exact .inRun (s := { s with run := c }) ⟨hscript, hphase, rfl, hwidth, hleft⟩ hc hfuel

/-! ### The payload byte against the loop over the payload -/

/-- What the document's loop does with a payload byte it has taken, with `m` more to follow (40_rle_commands.md R95). -/
def literalByte (f : Frame) (m : Nat) (idx : Byte) (l : Loop) : LoopResult :=
  if f.area ≤ l.pos then .fault .pixelOverrun l
  else literalRun f m { l with buf := l.buf.write l.pos (mapIndex f.pal idx), pos := l.pos + 1 }

theorem literalRun_succ (f : Frame) (m : Nat) (l : Loop) :
    literalRun f (m + 1) l =
      if l.consumed = f.length.toNat then .fault .truncatedRun l else l.nextByte (literalByte f m) := rfl

theorem State.Decoding.writeLiteral_leads {m : Nat} (h : s.Decoding f n) (hm : s.run.toNat = m + 1) (hfuel : n ≤ fuel)
    (idx : Byte) :
    ∃ t, writeLiteral idx s = .next t ∧
      t.Leads f (n + 1) ((literalByte f m idx s.loop).andThen (commandLoop f fuel)) := by
  obtain ⟨hscript, hphase, rfl, hwidth, hleft⟩ := h
  have hrun : (s.run - 1#7).toNat = m := by
    rw [run_sub_toNat fun hr => by simp [hr] at hm, hm]; rfl
  by_cases hn : s.N ≤ s.pos
  · have hloop : literalByte s.frame m idx s.loop = .fault .pixelOverrun s.loop := if_pos hn
    rw [hloop]
    exact ⟨_, writeLiteral_outside hn, .faulted s _ hscript⟩
  · have hloop : literalByte s.frame m idx s.loop = literalRun s.frame m _ := if_neg hn
    rw [hloop]
    refine ⟨_, writeLiteral_inside (Nat.lt_of_not_le hn), ?_⟩
    by_cases hlast : s.run - 1#7 = 0#7
    · obtain rfl : m = 0 := by rw [← hrun, hlast]; rfl
      rw [if_pos hlast]
      exact .between ⟨hscript, hphase, rfl, hwidth, hleft⟩ hlast hfuel
    · rw [if_neg hlast, ← hrun]
      exact .inRun ⟨hscript, hphase, rfl, hwidth, hleft⟩ hlast hfuel

/-! ### The fetch of a byte against the loop's -/

theorem Loop.nextByte_andThen (l : Loop) (k : Byte → Loop → LoopResult) (g : Loop → LoopResult) :
    (l.nextByte k).andThen g = l.nextByte fun b l => (k b l).andThen g := by
  unfold Loop.nextByte
  split <;> rfl

theorem State.Decoding.consumed_lt (h : s.Decoding f (n + 1)) : s.consumed < s.len := by
  obtain ⟨-, -, rfl, -, hleft⟩ := h
  exact Nat.lt_of_lt_of_eq (Nat.lt_add_of_pos_right (Nat.succ_pos n)) hleft

/-- A DECODE step that fetches a byte leads where the loop's fetch leads, if what is done with the byte does. -/
theorem State.Decoding.fetch_leads {k : Byte → State → Result} {g : Byte → Loop → LoopResult}
    (h : s.Decoding f (n + 1)) (hstep : step s = fetchStreamByte s k)
    (hk : ∀ b u, u.Decoding f n → u.run = s.run → ∃ t, k b u = .next t ∧ t.Leads f (n + 1) (g b u.loop)) :
    ∃ t, step s = .next t ∧ t.Leads f (n + 1) (s.loop.nextByte g) := by
  have hcount : (s.consumed + 1#32).toNat = s.consumed.toNat + 1 := consumed_succ_toNat h.consumed_lt
  obtain ⟨hscript, hphase, rfl, hwidth, hleft⟩ := h
  cases hq : s.q with
  | nil =>
    have hrest : step s = .next s := by rw [hstep, fetchStreamByte_nil hq]
    have hloop : s.loop.nextByte g = .starved s.loop := by simp only [Loop.nextByte, State.loop, hq]
    exact ⟨s, hrest, hloop ▸ .waiting hphase hq hrest⟩
  | cons tok rest =>
    cases tok with
    | err =>
      have hloop : s.loop.nextByte g = .fault .ioFailure { s.loop with rest := rest } := by
        simp only [Loop.nextByte, State.loop, hq]
      rw [hloop, hstep]
      exact ⟨_, fetchStreamByte_err hq, .faulted { s with q := rest } _ hscript⟩
    | eos =>
      have hloop : s.loop.nextByte g = .fault .truncatedRun { s.loop with rest := rest } := by
        simp only [Loop.nextByte, State.loop, hq]
      rw [hloop, hstep]
      exact ⟨_, fetchStreamByte_eos hq, .faulted { s with q := rest } _ hscript⟩
    | byte b =>
      rw [hstep, fetchStreamByte_byte hq, Loop.nextByte_byte hq]
      have hu := hk b { s with q := rest, consumed := s.consumed + 1#32 }
        ⟨hscript, hphase, rfl, hwidth, by rw [hcount, ← hleft]; omega⟩ rfl
      simpa only [State.loop, hcount] using hu

/-! ### One step of DECODE against the loop -/

theorem exists_run_eq_succ {r : BitVec 7} (h : r ≠ 0#7) : ∃ m, r.toNat = m + 1 :=
  Nat.exists_eq_succ_of_ne_zero fun e => h (BitVec.eq_of_toNat_eq e)

/-- With no byte left the decode ends between two commands, and is truncated within a run. -/
theorem State.Decoding.step_leads_zero (h : s.Decoding f 0) :
    ∃ t, step s = .next t ∧ t.Leads f 0 (s.remaining f fuel) := by
  obtain ⟨hscript, hphase, rfl, hwidth, hleft⟩ := h
  have hc : s.len ≤ s.consumed := Nat.le_of_eq hleft.symm
  rw [step_decode hscript hphase, State.remaining]
  by_cases hr : s.run = 0#7
  · have hloop : commandLoop s.frame fuel s.loop = .ok s.loop := commandLoop_done (Nat.le_of_eq hleft.symm) fuel
    rw [if_pos hr, LoopResult.andThen, hloop]
    exact ⟨_, decodeStep_exit hr hc, .ended (s := { s with phase := .flip }) hscript rfl rfl hleft⟩
  · obtain ⟨m, hm⟩ := exists_run_eq_succ hr
    have htaken : s.loop.consumed = s.frame.length.toNat := hleft
    rw [if_neg hr, hm, literalRun_succ, if_pos htaken]
    exact ⟨_, decodeStep_truncated hr hc, .faulted s _ hscript⟩

/-- With a byte left the step takes it, as the loop does next. -/
theorem State.Decoding.step_leads_succ (h : s.Decoding f (n + 1)) (hfuel : n + 1 ≤ fuel) :
    ∃ t, step s = .next t ∧ t.Leads f (n + 1) (s.remaining f fuel) := by
  rw [State.remaining]
  by_cases hr : s.run = 0#7
  · obtain ⟨fuel, rfl⟩ := Nat.exists_eq_add_of_le' (Nat.le_trans (Nat.succ_pos _) hfuel)
    have hloop : commandLoop f (fuel + 1) s.loop =
        s.loop.nextByte fun b l => (loopCommand f b l).andThen (commandLoop f fuel) :=
      if_pos (Nat.lt_of_lt_of_eq (Nat.lt_add_of_pos_right (Nat.succ_pos n)) h.left)
    have hstep := (step_decode h.script h.phase).trans (decodeStep_control hr h.consumed_lt)
    rw [if_pos hr, LoopResult.andThen, hloop]
    exact h.fetch_leads hstep fun b u hu hru => hu.execControl_leads (hru.trans hr) (Nat.le_of_succ_le_succ hfuel) b
  · obtain ⟨m, hm⟩ := exists_run_eq_succ hr
    have hmore : s.loop.consumed ≠ f.length.toNat :=
      Nat.ne_of_lt (Nat.lt_of_lt_of_eq (Nat.lt_add_of_pos_right (Nat.succ_pos n)) h.left)
    have hstep := (step_decode h.script h.phase).trans (decodeStep_payload hr h.consumed_lt)
    rw [if_neg hr, hm, literalRun_succ, if_neg hmore, Loop.nextByte_andThen]
    exact h.fetch_leads hstep fun b u hu hru => hu.writeLiteral_leads (hru ▸ hm) (Nat.le_of_succ_le hfuel) b

theorem State.Decoding.step_leads (h : s.Decoding f n) (hfuel : n ≤ fuel) :
    ∃ t, step s = .next t ∧ t.Leads f n (s.remaining f fuel) := by
  cases n with
  | zero => exact h.step_leads_zero
  | succ n => exact h.step_leads_succ hfuel

/-! ### The whole frame (42_frame_control.md R127) -/

theorem step_rest {s : State} (hs : s.script = []) (hp : s.phase = .idle ∨ s.phase = .done ∨ s.phase = .fault) :
    step s = .next s := by
  rw [step_nil hs, blockStep_rest hp]

/-- The block's FLIP step is the frame function's orientation. -/
theorem State.orientLoop_loop (s : State) : s.frame.orientLoop s.loop = .ok { s.loop with buf := orient s } := by
  by_cases hf : s.desc.isFlipped = 0#32
  · rw [orient_mirrored hf]
    exact if_pos hf
  · rw [orient_kept hf]
    exact if_neg hf

/-- The block has come to the end the frame function gives for a frame of `len` bytes. -/
def State.Shows (len : Nat) (t : State) : LoopResult → Prop
  | .ok l => t.phase = .done ∧ t.pix = l.buf ∧ t.pos = l.pos ∧ t.consumed.toNat = l.consumed ∧ l.consumed = len ∧
      t.q = l.rest
  | .fault k l => t.phase = .fault ∧ t.faultKind = k ∧ t.pos = l.pos ∧ t.consumed.toNat = l.consumed ∧ t.q = l.rest
  | .starved l => t.phase = .decode ∧ t.pix = l.buf ∧ t.pos = l.pos ∧ t.consumed.toNat = l.consumed ∧ t.q = [] ∧
      step t = .next t

/-- Where a state leads, it comes within one step more than the bytes it may take. -/
theorem State.Leads.run {r : LoopResult} (h : s.Leads f n r) :
    ∃ t, core.run (n + 1) s = .next t ∧ t.Shows f.length.toNat (r.andThen f.orientLoop) := by
  induction n using Nat.strongRecOn generalizing s r with
  | ind n ih =>
    cases h with
    | waiting hphase hqueue hrest => exact ⟨s, core_run_rest hrest _, hphase, rfl, rfl, rfl, hqueue, hrest⟩
    | faulted u k hscript =>
      have hrest : step (u.faulted k) = .next (u.faulted k) := step_rest hscript (.inr (.inr rfl))
      exact ⟨_, core_run_rest hrest _, rfl, rfl, rfl, rfl, rfl⟩
    | ended hscript hphase hframe htaken =>
      subst hframe
      have hrest : step s.afterFlip = .next s.afterFlip := step_rest hscript (.inr (.inl rfl))
      rw [core_run_next (step_flip hscript hphase), LoopResult.andThen, State.orientLoop_loop]
      exact ⟨_, core_run_rest hrest _, rfl, rfl, rfl, rfl, htaken, rfl⟩
    | decoding h hfuel =>
      obtain ⟨t, hstep, ht⟩ := h.step_leads hfuel
      rw [core_run_next hstep]
      exact ih _ (Nat.lt_succ_self _) ht

end

/-- Settles O53: after the FILL step the block has all `LEN` bytes to take and the document's loop all its work to do. -/
theorem blockComputesTheFrameFunction : Obligations.BlockComputesTheFrameFunction := by
  intro s hinv hp hs
  obtain ⟨hpos, hconsumed, hrun⟩ := hinv.filling hp
  obtain ⟨-, hwidth, -, -⟩ := hinv.framed (by rw [hp]; rfl)
  have hdecoding : s.afterFill.Decoding s.frame s.len.toNat :=
    ⟨hs, rfl, rfl, hwidth, by rw [State.afterFill, hconsumed]; exact Nat.zero_add _⟩
  obtain ⟨t, hreach, ht⟩ := (State.Leads.between hdecoding hrun (Nat.le_refl _)).run
  have hloop : s.afterFill.loop = .between (0, Memory.tabulate s.N fun _ => some s.fill) 0 s.q := by
    simp only [State.loop, State.afterFill, hpos, hconsumed]
    rfl
  have hframe : decodeFrame s.frame s.q =
      (commandLoop s.frame s.len.toNat s.afterFill.loop).andThen s.frame.orientLoop := by
    rw [hloop]
    exact decodeFrame_eq s.frame s.q
  refine ⟨t, (core_run_next (step_fill hs hp)).trans hreach, ?_⟩
  rw [hframe]
  exact ht

end Sys2Proof.Machine

/-! PROOFS. The host's formats (20_memory.md R50, R54, 43_host_formats.md R131 to R143): a word and a range of bytes as read
from a source, the container header, the tokens of a frame, and the palette resource of a run. -/

namespace Sys2Proof.Machine

/-! ### Reading a byte source (20_memory.md R50, 43_host_formats.md R131, R140) -/

section
variable {src : Source} {o n : Nat}

/-- A source whose reads do not fail is readable to every offset. -/
theorem Source.readableTo_of_failsFrom_none (hf : src.failsFrom = none) : src.readableTo o :=
  fun _ hk => nomatch hf.symm.trans hk

theorem Source.tokenAt_of_getElem? {b : Byte} (hf : src.failsFrom = none) (hb : src.bytes[o]? = some b) :
    src.tokenAt o = .byte b := by
  simp only [Source.tokenAt, hf, hb]

theorem Source.tokenAt_eos (hr : src.readableTo (o + 1)) (h : src.bytes.length ≤ o) : src.tokenAt o = .eos := by
  unfold Source.tokenAt
  cases hf : src.failsFrom with
  | none => simp only [List.getElem?_eq_none h]
  | some k => simp only [List.getElem?_eq_none h, if_neg (Nat.not_le.2 (hr k hf))]

theorem Source.tokens_succ_byte {b : Byte} (h : src.tokenAt o = .byte b) (n : Nat) :
    src.tokens o (n + 1) = .byte b :: src.tokens (o + 1) n := by
  simp only [Source.tokens, h]

theorem Source.tokens_succ_eos (h : src.tokenAt o = .eos) (n : Nat) : src.tokens o (n + 1) = [.eos] := by
  simp only [Source.tokens, h]

/-- A readable range that goes past the end of the source is read as the bytes that exist and then `End`. -/
theorem Source.tokens_eos (hr : src.readableTo (o + n)) (hn : 0 < n) (h : src.bytes.length < o + n) :
    src.tokens o n = (src.bytes.drop o).map Token.byte ++ [.eos] := by
  induction n generalizing o with
  | zero => exact absurd hn (Nat.lt_irrefl 0)
  | succ n ih =>
    have hhead : src.readableTo (o + 1) := fun k hk => Nat.le_trans (by omega) (hr k hk)
    by_cases hlt : o < src.bytes.length
    · rw [Source.tokens_succ_byte (Source.tokenAt_byte hhead hlt), List.drop_eq_getElem_cons hlt,
        ih (fun k hk => Nat.le_trans (by omega) (hr k hk)) (by omega) (by omega), List.map_cons, List.cons_append]
    · have hend : src.bytes.length ≤ o := Nat.not_lt.1 hlt
      rw [Source.tokens_succ_eos (Source.tokenAt_eos hhead hend), List.drop_eq_nil_of_le hend, List.map_nil,
        List.nil_append]

/-! ### Words and the container header (20_memory.md R54, 43_host_formats.md R131 to R133) -/

theorem Source.word_of_bytes {b0 b1 b2 b3 : Byte}
    (h : src.tokens o 4 = [.byte b0, .byte b1, .byte b2, .byte b3]) :
    src.word o = .ok (littleEndian b0 b1 b2 b3) := by
  simp only [Source.word, h]

theorem littleEndian_toNat (b0 b1 b2 b3 : Byte) :
    (littleEndian b0 b1 b2 b3).toNat =
      b0.toNat + 256 * b1.toNat + 65536 * b2.toNat + 16777216 * b3.toNat := by
  simp only [littleEndian, toNat_append_eq_add]
  ring

theorem Source.containerHeader_of_words {w0 w1 w2 w3 w4 w5 : Word}
    (h : src.words 0 6 = .ok [w0, w1, w2, w3, w4, w5]) :
    src.containerHeader =
      if w0 = 6#32 ∧ w1 = 1#32 ∧ w2 = 0#32 then .ok { directions := w4, framesPerDirection := w5 }
      else .error .invalidHeader := by
  simp only [Source.containerHeader, h]

end

/-- Settles O58: the four bytes are read in file order, and the last of them stands highest. -/
theorem wordsAreLittleEndian : Obligations.WordsAreLittleEndian := by
  intro src o b0 b1 b2 b3 hf h0 h1 h2 h3
  have htokens : src.tokens o 4 = [.byte b0, .byte b1, .byte b2, .byte b3] := by
    rw [Source.tokens_succ_byte (Source.tokenAt_of_getElem? hf h0),
      Source.tokens_succ_byte (Source.tokenAt_of_getElem? hf h1),
      Source.tokens_succ_byte (Source.tokenAt_of_getElem? hf h2),
      Source.tokens_succ_byte (Source.tokenAt_of_getElem? hf h3), Source.tokens]
  exact ⟨_, Source.word_of_bytes htokens, littleEndian_toNat b0 b1 b2 b3⟩

/-- Settles O57: six words read leave the test of the first three. -/
theorem containerHeaderIsSixOneZero : Obligations.ContainerHeaderIsSixOneZero := by
  intro src w0 w1 w2 w3 w4 w5 hwords
  rw [Source.containerHeader_of_words hwords]
  exact ⟨fun h0 h1 h2 => if_pos ⟨h0, h1, h2⟩, fun hbad => if_neg (by simpa only [not_and_or] using hbad)⟩

/-! ### The tokens of a frame (43_host_formats.md R137, R140) -/

/-- Settles O59: the stream lies inside the source, or is empty, or is cut by the end of the source. -/
theorem frameTokensEndWithTheSource : Obligations.FrameTokensEndWithTheSource := by
  intro src o d hf
  rw [Source.frameTokens]
  split
  · next hin => exact Source.tokens_bytes (Source.readableTo_of_failsFrom_none hf) hin
  · next hout =>
    split
    · next hzero => rw [hzero]; rfl
    · next hlen =>
      have hpos : 0 < d.length.toNat := Nat.pos_of_ne_zero fun h => hlen (BitVec.eq_of_toNat_eq h)
      exact Source.tokens_eos (Source.readableTo_of_failsFrom_none hf) hpos (Nat.not_le.1 hout)

/-! ### The palette resource (43_host_formats.md R139, R143) -/

section
variable {resource : PaletteResource} {blob : List Byte} {k : FaultKind}
variable {params : Params} {fill : PixelWord} {maxFrames : Nat} {files : List Source}

theorem paletteOperations_of_blob (h : resource.blob = .ok blob) :
    paletteOperations resource = .ok (paletteScript blob) := by
  simp only [paletteOperations, h]

theorem paletteOperations_of_no_blob (h : resource.blob = .error k) : paletteOperations resource = .error k := by
  simp only [paletteOperations, h]

theorem PaletteResource.palette_of_blob (h : resource.blob = .ok blob) :
    resource.palette = buildPalette blob := by
  simp only [PaletteResource.palette, h]

theorem PaletteResource.palette_of_no_blob (h : resource.blob = .error k) : resource.palette = .error k := by
  simp only [PaletteResource.palette, h]

theorem decodeBatch_of_palette {pal : Palette} (h : resource.palette = .ok pal) :
    decodeBatch params fill maxFrames resource files =
      .ok (files.map (decodeFile { params := params, pal := pal, fill := fill } maxFrames)) := by
  simp only [decodeBatch, h]

theorem decodeBatch_of_no_palette (h : resource.palette = .error k) :
    decodeBatch params fill maxFrames resource files = .error k := by
  simp only [decodeBatch, h]

/-- A resource without a blob gives its fault twice: for the load and for the run. -/
theorem no_blob_ends_the_run (h : resource.blob = .error k) :
    paletteOperations resource = .error k ∧ decodeBatch params fill maxFrames resource files = .error k :=
  ⟨paletteOperations_of_no_blob h, decodeBatch_of_no_palette (PaletteResource.palette_of_no_blob h)⟩

theorem buildPalette_wrongSize (h : blob.length ≠ 768) : buildPalette blob = .error .invalidPaletteSize :=
  if_neg h

/-- A blob of 768 bytes gives a palette with the entries of its (B, G, R) triples (41_palette_mapper.md R106). -/
theorem buildPalette_whole (h : blob.length = 768) :
    ∃ pal : Palette, buildPalette blob = .ok pal ∧ ∀ i (hi : i < 256), blob[3 * i]? = some pal[i].b ∧
      blob[3 * i + 1]? = some pal[i].g ∧ blob[3 * i + 2]? = some pal[i].r := by
  refine ⟨_, if_pos h, fun i hi => ?_⟩
  have hstaged : ∀ j (hj : j < 768),
      blob[j]? = some (Vector.ofFn fun i : Fin 768 => blob.getD i.val 0#8)[j] := fun j hj => by
    have hlt : j < blob.length := h ▸ hj
    simp [hlt]
  rw [commitPalette_get _ i hi]
  exact ⟨hstaged _ (by omega), hstaged _ (by omega), hstaged _ (by omega)⟩

end

/-- Settles O60: the blob the resource gives decides, and of a blob that was read its size. -/
theorem paletteResourceStartsOrEndsTheRun : Obligations.PaletteResourceStartsOrEndsTheRun := by
  intro params fill maxFrames files
  refine ⟨no_blob_ends_the_run rfl, fun src k hf hk => no_blob_ends_the_run (PaletteResource.blob_failed hf hk),
    fun src hr => ?_⟩
  have hblob : (PaletteResource.measured src).blob = .ok src.bytes := PaletteResource.blob_ok hr
  have hpalette := PaletteResource.palette_of_blob hblob
  refine ⟨paletteOperations_of_blob hblob, fun hsize => ?_, fun hsize => ?_⟩
  · exact decodeBatch_of_no_palette (hpalette.trans (buildPalette_wrongSize hsize))
  · obtain ⟨pal, hbuild, hentries⟩ := buildPalette_whole hsize
    exact ⟨pal, decodeBatch_of_palette (hpalette.trans hbuild), hentries⟩

end Sys2Proof.Machine

/-! PROOFS. Exceptions and units (60_exceptions.md R152, R157, R166, R169): fault entry, what a refused write or command
leaves, the bound on a frame's steps, and a step of one unit of a platform. -/

namespace Sys2Proof.Machine

/-! ### Fault entry (60_exceptions.md R152) -/

/-- Settles O43: fault entry writes `FAULT`, `STATE` and `PIX`, so putting back those three gives the state before. -/
theorem faultEntryKeepsTheRegisters : Obligations.FaultEntryKeepsTheRegisters := by
  intro k s
  exact ⟨s.faulted k, raise_eq k s, s.faulted_faultKind k, s.faulted_phase k, rfl⟩

/-! ### Refused writes and commands (60_exceptions.md R157, 10_state.md R26) -/

/-- A command is refused, with its one effect, or it is accepted, which leaves `REFUSAL` zero. -/
theorem commandWrite_refused_or_accepted {v : Word} {s t : State} (h : commandWrite v s = .next t) :
    (∃ r, t = s.refusedWith r) ∨ t.refusal = .none := by
  rcases commandWrite_cases h with ⟨-, h⟩ | ⟨-, h⟩ | ⟨-, h⟩ | rfl
  · rcases execPalLoad_cases h with ⟨r, -, rfl⟩ | ⟨-, -, rfl⟩
    · exact .inl ⟨r, rfl⟩
    · exact .inr rfl
  · rcases execStart_cases h with ⟨r, -, rfl⟩ | ⟨-, -, -, -, -, rfl⟩
    · exact .inl ⟨r, rfl⟩
    · exact .inr rfl
  · rcases execAck_cases h with ⟨rfl, -, -⟩ | ⟨-, rfl⟩
    · exact .inl ⟨.wrongState, rfl⟩
    · exact .inr rfl
  · exact .inl ⟨.unknownCommand, rfl⟩

/-- A write to any other register is refused, with its one effect, or accepted too. -/
theorem regWrite_refused_or_accepted {n : Nat} {v : Word} {s t : State} (h : regWrite n v s = .next t) :
    (∃ r, t = s.refusedWith r) ∨ t.refusal = .none := by
  rcases regWrite_cases h with ⟨r, -, rfl⟩ | ⟨-, -, rfl⟩
  · exact .inl ⟨r, rfl⟩
  · exact .inr rfl

/-- Settles O41: a step that leaves `REFUSAL` non-zero was not accepted, and a refusal writes `REFUSAL` only. -/
theorem refusedWriteOnlySetsTheReason : Obligations.RefusedWriteOnlySetsTheReason := by
  intro s t n v ops hs h hrefusal
  have hcases : (∃ r, t = State.refusedWith { s with script := ops } r) ∨ t.refusal = .none := by
    by_cases hn : n = 0
    · subst hn
      rw [step_host hs nofun] at h
      exact commandWrite_refused_or_accepted h
    · rw [step_regWrite hs hn] at h
      exact regWrite_refused_or_accepted h
  obtain ⟨r, rfl⟩ := hcases.resolve_right hrefusal
  rfl

/-! ### The end of a frame (60_exceptions.md R169) -/

/-- Settles O54: the frame function ends normally, with a fault or for want of a token, and `blockComputesTheFrameFunction`
says that after `LEN + 3` steps the block shows which. -/
theorem frameEndsWithinLengthPlusThree : Obligations.FrameEndsWithinLengthPlusThree := by
  intro s hinv hp hs
  obtain ⟨t, hrun, ht⟩ := blockComputesTheFrameFunction s hinv hp hs
  refine ⟨t, hrun, ?_⟩
  cases hframe : decodeFrame s.frame s.q with
  | ok l =>
    rw [hframe] at ht
    obtain ⟨hdone, -⟩ := ht
    exact .inl hdone
  | fault k l =>
    rw [hframe] at ht
    obtain ⟨hfault, -⟩ := ht
    exact .inr (.inl hfault)
  | starved l =>
    rw [hframe] at ht
    obtain ⟨hdecode, -, -, -, hqueue, hrest⟩ := ht
    exact .inr (.inr ⟨hdecode, hqueue, hrest⟩)

/-! ### A platform of units (00_scope.md R8, 60_exceptions.md R166) -/

/-- Everything a platform's step can do when it answers a next platform: there is no such unit, or the unit's own step is
put in its place. -/
theorem Platform.stepUnit_cases {p p' : Platform} {k : Nat} (h : p.stepUnit k = .next p') :
    (p.units[k]? = none ∧ p' = p) ∨
    (∃ s t, p.units[k]? = some s ∧ step s = .next t ∧ p' = { units := p.units.set k t }) := by
  unfold Platform.stepUnit at h
  split at h
  · next hunit => cases h; exact .inl ⟨hunit, rfl⟩
  · next s hunit =>
    split at h
    · next t hstep => cases h; exact .inr ⟨s, t, hunit, hstep, rfl⟩
    · cases h
    · cases h

/-- Settles O56: the step writes one place of the list of units, with that unit's own next state. -/
theorem unitsStepIndependently : Obligations.UnitsStepIndependently := by
  intro p p' k h
  rcases Platform.stepUnit_cases h with ⟨hnone, rfl⟩ | ⟨s, t, hunit, hstep, rfl⟩
  · exact ⟨rfl, fun j _ => rfl, fun s t hunit _ => nomatch hnone.symm.trans hunit⟩
  · refine ⟨List.length_set, fun j hj => List.getElem?_set_ne hj.symm, fun s' t' hunit' hstep' => ?_⟩
    obtain rfl : s = s' := Option.some.inj (hunit.symm.trans hunit')
    obtain rfl : t = t' := Host.Outcome.next.inj (hstep.symm.trans hstep')
    obtain ⟨hk, -⟩ := List.getElem?_eq_some_iff.1 hunit
    exact List.getElem?_set_self hk

end Sys2Proof.Machine

/-! PROOFS. Reset and the invariant (70_reset_and_hazards.md R171, R185): what the reset event leaves, and that every step
keeps the invariant: outside a frame few of its clauses ask anything, within a frame a byte taken pays for the most that
the cursor moves. -/

namespace Sys2Proof.Machine

/-! ### The reset event (70_reset_and_hazards.md R171) -/

/-- Settles O45: the event is the host's next operation, and each register is read off the state it leaves. -/
theorem resetEventSetsTheRegisters : Obligations.ResetEventSetsTheRegisters := by
  intro s ops hs
  rw [step_host hs nofun]
  refine ⟨State.afterReset { s with script := ops }, rfl, rfl, rfl, rfl, rfl, rfl, rfl, rfl, fun n hlo hhi => ?_,
    rfl, rfl, rfl, rfl, rfl, rfl, rfl⟩
  interval_cases n <;> rfl

/-! ### The invariant outside a frame -/

theorem Phase.inFrame_of_hasPixels {p : Phase} (h : p.hasPixels = true) : p.inFrame = true := by
  revert h
  cases p <;> decide

/-- Outside a frame the clauses on the frame and its pixels ask nothing. -/
theorem State.Inv.of_outside {s : State} (hout : s.phase.inFrame = false) (pixWf : s.pix.wf) (paramsWf : s.params.wf)
    (faultCode : s.faultKind ≠ .none ↔ s.phase = .fault)
    (blockFaults : s.faultKind ≠ .invalidHeader ∧ s.faultKind ≠ .truncatedFrame)
    (loading : s.phase = .palload → s.palValid = false) (pcntLe : s.pcnt ≤ 769) (posLe : s.pos ≤ (2 ^ 32 - 1) ^ 2) :
    s.Inv := by
  have hframe : s.phase.inFrame ≠ true := Bool.eq_false_iff.1 hout
  exact { pixWf, paramsWf, faultCode, blockFaults, loading, pcntLe, posLe
          framed := fun h => absurd h hframe
          consumedLe := fun h => absurd h hframe
          posStride := fun h => absurd h hframe
          filling := fun h => absurd (h ▸ rfl) hframe
          filled := fun h => absurd (Phase.inFrame_of_hasPixels h) hframe
          finished := fun h => absurd (by rcases h with h | h <;> rw [h] <;> rfl) hframe }

theorem State.Inv.of_idle {s : State} (hp : s.phase = .idle) (hk : s.faultKind = .none) (pixWf : s.pix.wf)
    (paramsWf : s.params.wf) (pcntLe : s.pcnt ≤ 769) (posLe : s.pos ≤ (2 ^ 32 - 1) ^ 2) : s.Inv :=
  .of_outside (hp ▸ rfl) pixWf paramsWf (by rw [hk, hp]; decide) (by rw [hk]; decide) (by rw [hp]; nofun) pcntLe posLe

/-- The kinds the block itself raises: 1, 4, 5, 6 and 7 (60_exceptions.md R148, R155). -/
abbrev FaultKind.OfBlock (k : FaultKind) : Prop := k ≠ .none ∧ k ≠ .invalidHeader ∧ k ≠ .truncatedFrame

theorem State.Inv.of_faulted {s : State} {k : FaultKind} (hk : k.OfBlock) (paramsWf : s.params.wf)
    (pcntLe : s.pcnt ≤ 769) (posLe : s.pos ≤ (2 ^ 32 - 1) ^ 2) : (s.faulted k).Inv :=
  .of_outside rfl .nil paramsWf ⟨fun _ => rfl, fun _ => hk.1⟩ hk.2 nofun pcntLe posLe

section
variable {s t : State}

theorem State.Inv.faulted (h : s.Inv) {k : FaultKind} (hk : k.OfBlock) : (s.faulted k).Inv :=
  .of_faulted hk h.paramsWf h.pcntLe h.posLe

theorem State.Inv.released (h : s.Inv) : s.released.Inv :=
  .of_idle rfl rfl .nil h.paramsWf h.pcntLe h.posLe

theorem State.Inv.afterReset (h : s.Inv) : s.afterReset.Inv :=
  .of_idle rfl rfl .nil h.paramsWf (Nat.zero_le _) (Nat.zero_le _)

theorem State.Inv.faultKind_eq_none (h : s.Inv) (hp : s.phase ≠ .fault) : s.faultKind = .none :=
  Decidable.not_not.1 (mt h.faultCode.1 hp)

/-- What the host alone writes is in no clause: `REFUSAL`, the queue, the script and the notebook. -/
theorem State.Inv.host (h : s.Inv) {r : RefusalReason} {q : List Token} {ops : List HostOp} {replies : List Reply} :
    State.Inv { s with refusal := r, q := q, script := ops, replies := replies } :=
  { h with }

/-- A register write is accepted in `IDLE` only, where no clause speaks of the descriptor. -/
theorem State.Inv.setReg (h : s.Inv) (hp : s.phase = .idle) (n : Nat) (v : Word) : (s.setReg n v).accepted.Inv := by
  have hk : s.faultKind = .none := h.faultKind_eq_none (by rw [hp]; nofun)
  refine .of_idle ?_ ?_ ?_ ?_ ?_ ?_
  · simpa using hp
  · simpa using hk
  · simpa using h.pixWf
  · simpa using h.paramsWf
  · simpa using h.pcntLe
  · simpa using h.posLe

/-! ### A palette load (41_palette_mapper.md R103 to R105) -/

theorem execPalLoad_inv (h : s.Inv) (he : execPalLoad s = .next t) : t.Inv := by
  rcases execPalLoad_cases he with ⟨r, -, rfl⟩ | ⟨hp, hv, rfl⟩
  · exact h.host
  · have hk : s.faultKind = .none := h.faultKind_eq_none (by rw [hp]; nofun)
    exact .of_outside rfl h.pixWf h.paramsWf (iff_of_false (absurd hk) nofun) h.blockFaults (fun _ => hv)
      (Nat.zero_le _) h.posLe

theorem stageByte_pcnt_le (h : s.pcnt ≤ 769) (b : Byte) : (stageByte b s).pcnt ≤ 769 := by
  rw [stageByte_pcnt]
  split <;> omega

theorem failLoad_inv (h : s.Inv) {k : FaultKind} (hk : k.OfBlock) (hf : failLoad k s = .next t) : t.Inv := by
  rw [failLoad_eq] at hf
  cases hf
  exact .of_faulted hk h.paramsWf h.pcntLe h.posLe

theorem palloadStep_inv (h : s.Inv) (hp : s.phase = .palload) (hb : palloadStep s = .next t) : t.Inv := by
  have hk : s.faultKind = .none := h.faultKind_eq_none (by rw [hp]; nofun)
  rcases palloadStep_cases hb with ⟨-, rfl⟩ | ⟨rest, -, hb⟩ | ⟨b, rest, -, rfl⟩ | ⟨rest, -, hb⟩
  · exact h
  · exact failLoad_inv h.host (by decide) hb
  · exact { h with pcntLe := stageByte_pcnt_le h.pcntLe b }
  · rcases endOfBlob_cases hb with ⟨-, hb⟩ | ⟨-, rfl⟩
    · exact failLoad_inv h.host (by decide) hb
    · exact .of_idle rfl hk h.pixWf h.paramsWf h.pcntLe h.posLe

/-! ### The start of a frame and its phases (42_frame_control.md R118, R119, R122) -/

theorem execStart_inv (h : s.Inv) (he : execStart s = .next t) : t.Inv := by
  rcases execStart_cases he with ⟨r, -, rfl⟩ | ⟨hp, hv, hw, hh, hN, rfl⟩
  · exact h.host
  · have hk : s.faultKind = .none := h.faultKind_eq_none (by rw [hp]; nofun)
    exact { pixWf := h.pixWf, paramsWf := h.paramsWf, blockFaults := h.blockFaults, pcntLe := h.pcntLe
            faultCode := iff_of_false (absurd hk) nofun
            loading := nofun
            framed := fun _ => ⟨hv, Nat.pos_of_ne_zero hw, Nat.pos_of_ne_zero hh, hN⟩
            consumedLe := fun _ => Nat.zero_le _
            posStride := fun _ => Nat.zero_le _
            posLe := Nat.zero_le _
            filling := fun _ => ⟨rfl, rfl, rfl⟩
            filled := nofun
            finished := by rintro (h | h) <;> cases h }

/-- A frame goes on to a phase with pixels, with a buffer of exactly the words below `N`. -/
theorem State.Inv.advance (h : s.Inv) (hs : s.phase.inFrame = true) {p : Phase} (hp : p.hasPixels = true) {m : Memory}
    (hm : m.wf) (hfilled : ∀ i, (m.read i).isSome = true ↔ i < s.N)
    (hfin : p = .flip ∨ p = .done → s.consumed = s.len ∧ s.run = 0#7) :
    State.Inv { s with pix := m, phase := p } := by
  have hk : s.faultKind = .none := h.faultKind_eq_none fun e => by rw [e] at hs; cases hs
  exact { h with
          pixWf := hm
          faultCode := iff_of_false (absurd hk) (by rintro rfl; cases hp)
          loading := by rintro rfl; cases hp
          framed := fun _ => h.framed hs
          consumedLe := fun _ => h.consumedLe hs
          posStride := fun _ => h.posStride hs
          filling := by rintro rfl; cases hp
          filled := fun _ => hfilled
          finished := hfin }

theorem State.Inv.afterFill (h : s.Inv) (hp : s.phase = .fill) : s.afterFill.Inv := by
  refine h.advance (hp ▸ rfl) rfl (Memory.wf_tabulate _ _) (fun i => ?_) (by rintro (h | h) <;> cases h)
  rw [Memory.read_tabulate]
  split <;> simp [*]

/-- Orientation keeps which words are written. -/
theorem orient_isSome_iff (hpix : ∀ i, (s.pix.read i).isSome = true ↔ i < s.N) (i : Nat) :
    ((orient s).read i).isSome = true ↔ i < s.N := by
  by_cases hf : s.desc.isFlipped = 0#32
  · rw [orient_mirrored hf, Memory.read_tabulate]
    split
    · next hi => exact iff_of_true ((hpix _).2 (mirror_lt hi)) hi
    · next hi => exact iff_of_false nofun hi
  · rw [orient_kept hf]
    exact hpix i

theorem orient_wf (h : s.pix.wf) : (orient s).wf := by
  by_cases hf : s.desc.isFlipped = 0#32
  · rw [orient_mirrored hf]
    exact Memory.wf_tabulate _ _
  · rw [orient_kept hf]
    exact h

theorem State.Inv.afterFlip (h : s.Inv) (hp : s.phase = .flip) : s.afterFlip.Inv :=
  h.advance (hp ▸ rfl) rfl (orient_wf h.pixWf) (orient_isSome_iff (h.filled (hp ▸ rfl))) fun _ => h.finished (.inl hp)

/-! ### Phase DECODE (40_rle_commands.md R85 to R94, 70_reset_and_hazards.md R185) -/

/-- `CONSUMED` and the stride are 32-bit numbers. -/
theorem State.consumed_mul_stride_le (s : State) : s.consumed.toNat * s.stride ≤ (2 ^ 32 - 1) ^ 2 := by
  have hc := s.consumed.isLt
  have hw := s.desc.width.isLt
  have hstride : s.stride ≤ 2 ^ 32 - 1 := by
    simp only [State.stride, State.W]
    omega
  rw [Nat.pow_two]
  exact Nat.mul_le_mul (by omega) hstride

/-- A byte taken and counted pays for a move of the cursor by at most the stride. -/
theorem State.Inv.byteTaken (h : s.Inv) (hp : s.phase = .decode) (hc : s.consumed < s.len) {q : List Token} {pos : Nat}
    {run : BitVec 7} (hpos : pos ≤ s.pos + s.stride) :
    State.Inv { s with q := q, consumed := s.consumed + 1#32, pos := pos, run := run } := by
  have hcount := consumed_succ_toNat hc
  have hstride : pos ≤ (s.consumed + 1#32).toNat * s.stride := by
    have := h.posStride (hp ▸ rfl)
    rw [hcount, Nat.succ_mul]
    omega
  exact { h with
          consumedLe := fun _ => BitVec.le_def.2 (hcount ▸ hc)
          posStride := fun _ => hstride
          posLe := Nat.le_trans hstride (State.consumed_mul_stride_le { s with consumed := s.consumed + 1#32 })
          filling := fun e => nomatch hp.symm.trans e
          finished := by rintro (e | e) <;> cases hp.symm.trans e }

/-- A write below `N` leaves the same words written. -/
theorem State.Inv.writePixel (h : s.Inv) {i : Nat} (hi : i < s.N) (w : PixelWord) :
    State.Inv { s with pix := s.pix.write i w } := by
  refine { h with pixWf := Memory.wf_write h.pixWf i w, filled := fun hp j => ?_ }
  change ((s.pix.write i w).read j).isSome = true ↔ j < s.N
  rw [Memory.read_write]
  split
  · next e => exact iff_of_true rfl (e ▸ hi)
  · exact h.filled hp j

/-- A control byte's meaning raises its fault or moves the cursor by at most the stride. -/
theorem execControl_moves {b : Byte} (he : exec (decodeControl b) s = .next t) :
    t = s.faulted .reservedCommand ∨ ∃ pos run, pos ≤ s.pos + s.stride ∧ t = { s with pos := pos, run := run } := by
  have h127 : 127 ≤ s.stride := Nat.le_max_left _ _
  rcases decodeControl_cases b with hb | hb | hb | hb <;> rw [hb] at he
  · obtain ⟨hw, rfl⟩ := execEol_cases he
    have hrow := (nextRow_bounds s.pos (Nat.pos_of_ne_zero hw)).2
    have hstride : s.W ≤ s.stride := Nat.le_max_right _ _
    exact .inr ⟨_, _, by omega, rfl⟩
  · obtain rfl := execSkip_cases he
    have := (count b).isLt
    exact .inr ⟨_, _, by omega, rfl⟩
  · rcases execLit0_cases he with rfl | rfl | ⟨-, -, -, -, rfl⟩
    · exact .inl rfl
    · exact .inr ⟨_, _, Nat.le_add_right _ _, rfl⟩
    · exact .inr ⟨_, _, by omega, rfl⟩
  · obtain rfl := execLit_cases he
    exact .inr ⟨_, _, Nat.le_add_right _ _, rfl⟩

/-- The fetch of a stream byte keeps the invariant where what follows a counted byte does. -/
theorem fetchStreamByte_inv {k : Byte → State → Result} (h : s.Inv)
    (hk : ∀ b rest, k b { s with q := rest, consumed := s.consumed + 1#32 } = .next t → t.Inv)
    (hf : fetchStreamByte s k = .next t) : t.Inv := by
  rcases fetchStreamByte_cases hf with ⟨-, rfl⟩ | ⟨rest, -, rfl⟩ | ⟨rest, -, rfl⟩ | ⟨b, rest, -, hb⟩
  · exact h
  · exact h.host.faulted (by decide)
  · exact h.host.faulted (by decide)
  · exact hk b rest hb

theorem execControl_inv (h : s.Inv) (hp : s.phase = .decode) (hc : s.consumed < s.len) {b : Byte} {rest : List Token}
    (he : exec (decodeControl b) { s with q := rest, consumed := s.consumed + 1#32 } = .next t) : t.Inv := by
  rcases execControl_moves he with rfl | ⟨pos, run, hpos, rfl⟩
  · exact (h.byteTaken hp hc (Nat.le_add_right _ _)).faulted (by decide)
  · exact h.byteTaken hp hc hpos

theorem writeLiteral_inv (h : s.Inv) (hp : s.phase = .decode) (hc : s.consumed < s.len) {idx : Byte} {rest : List Token}
    (hw : writeLiteral idx { s with q := rest, consumed := s.consumed + 1#32 } = .next t) : t.Inv := by
  rcases writeLiteral_cases hw with ⟨-, rfl⟩ | ⟨hi, rfl⟩
  · exact (h.byteTaken hp hc (Nat.le_add_right _ _)).faulted (by decide)
  · have hin : s.pos < s.N := hi
    have h127 : 127 ≤ s.stride := Nat.le_max_left _ _
    have hfill := (rowFill_bounds s.W (s.pos + 1)).2
    have hpos : (if s.run - 1#7 = 0#7 then rowFill s.W (s.pos + 1) else s.pos + 1) ≤ s.pos + s.stride := by
      split <;> omega
    exact (h.writePixel hin _).byteTaken hp hc hpos

theorem decodeStep_inv (h : s.Inv) (hp : s.phase = .decode) (hd : decodeStep s = .next t) : t.Inv := by
  rcases decodeStep_cases hd with ⟨hrun, hend, rfl⟩ | ⟨-, hc, hd⟩ | ⟨-, hd⟩
  · have hlen : s.consumed = s.len := BitVec.le_antisymm (h.consumedLe (hp ▸ rfl)) hend
    exact h.advance (hp ▸ rfl) rfl h.pixWf (h.filled (hp ▸ rfl)) fun _ => ⟨hlen, hrun⟩
  · exact fetchStreamByte_inv h (fun _ _ => execControl_inv h hp hc) hd
  · rcases payloadStep_cases hd with ⟨-, rfl⟩ | ⟨hc, hd⟩
    · exact h.faulted (by decide)
    · exact fetchStreamByte_inv h (fun _ _ => writeLiteral_inv h hp hc) hd

/-! ### Every step -/

theorem blockStep_inv (h : s.Inv) (hb : blockStep s = .next t) : t.Inv := by
  rcases blockStep_cases hb with ⟨-, rfl⟩ | ⟨hp, hb⟩ | ⟨hp, rfl⟩ | ⟨hp, hb⟩ | ⟨hp, rfl⟩
  · exact h
  · exact palloadStep_inv h hp hb
  · exact h.afterFill hp
  · exact decodeStep_inv h hp hb
  · exact h.afterFlip hp

theorem commandWrite_inv {v : Word} (h : s.Inv) (hc : commandWrite v s = .next t) : t.Inv := by
  rcases commandWrite_cases hc with ⟨-, he⟩ | ⟨-, he⟩ | ⟨-, he⟩ | rfl
  · exact execPalLoad_inv h he
  · exact execStart_inv h he
  · rcases execAck_cases he with ⟨rfl, -, -⟩ | ⟨-, rfl⟩
    · exact h.host
    · exact h.released
  · exact h.host

theorem hostOperation_inv {op : HostOp} (h : s.Inv) (ho : hostOperation op s = .next t) : t.Inv := by
  rcases hostOperation_cases ho with ⟨n, -, rfl⟩ | ⟨v, -, hc⟩ | ⟨n, v, -, -, hr⟩ | ⟨i, -, hr⟩ | ⟨tok, -, rfl⟩ | ⟨-, rfl⟩ |
    ⟨-, rfl⟩ | ⟨-, hb⟩ | ⟨-, rfl⟩
  · exact h.host
  · exact commandWrite_inv h hc
  · rcases regWrite_cases hr with ⟨r, -, rfl⟩ | ⟨hp, -, rfl⟩
    · exact h.host
    · exact h.setReg hp n v
  · rcases pixRead_cases hr with ⟨-, -, w, -, rfl⟩ | ⟨-, rfl⟩
    · exact h.host
    · exact h.host
  · exact h.host
  · exact h.host
  · exact h.afterReset
  · exact blockStep_inv h hb
  · exact h

end

/-- Settles O47: a step is the block's or a host operation, and each of them keeps the invariant. -/
theorem stepKeepsTheInvariant : Obligations.StepKeepsTheInvariant := by
  intro s t h hs
  rcases step_cases hs with ⟨hb, -⟩ | ⟨op, ops, -, ho⟩
  · exact blockStep_inv h hb
  · exact hostOperation_inv h.host ho

end Sys2Proof.Machine
